-- ==== Sys2Proof/Word.lean ====
section
/-! DEFINITION. The two word types of LSTX: every datum it moves is a byte (20_memory.md R33), every register of the host block a 32-bit word (10_state.md R6). -/

namespace Sys2Proof

/-- A byte: `u8` of 00_scope.md R4. -/
abbrev Byte := BitVec 8

/-- A 32-bit register word of the host block. -/
abbrev Word := BitVec 32

end Sys2Proof
end

