-- ==== Sys2Proof/Config.lean ====
section
/-! DEFINITION. What is fixed when the block is built: the source's constants (00_scope.md R2), the named parameters (R3) as one plain record `Build`, the opaque values of the parameters the spec leaves OPEN, and the opaque free values behind the device's and the timing service's answers. -/

namespace Sys2Proof

/-- PACE_MODE (10_state.md R24). -/
inductive PaceMode where
  | deterministic
  | production
  deriving DecidableEq, Repr, Inhabited

/-- The two PRN sequences of the system (10_state.md R22). -/
inductive Prn where
  | zero
  | one
  deriving DecidableEq, Repr, Inhabited

/-- One entry of POWER_TABLE (10_state.md R23). -/
structure PowerEntry where
  dbm : Int
  cal : Byte
  deriving DecidableEq, Repr, Inhabited

/-- POWER_TABLE: a non-empty list of entries, lowest dBm first (10_state.md R23). -/
structure PowerTable where
  first : PowerEntry
  rest  : List PowerEntry
  deriving DecidableEq, Repr, Inhabited

/-- A run of readable host memory bytes, `base` to `base + size - 1`. -/
structure Region where
  base : Nat
  size : Nat
  deriving DecidableEq, Repr, Inhabited

namespace Config

/-! ### Fixed by the source (00_scope.md R2) -/

/-- FIFO_CAPACITY, in bytes. -/
def fifoCapacity : Nat := 64
/-- FRAME_BITS. -/
def frameBits : Nat := 30
/-- PREAMBLE `1110010`, its first bit the highest. -/
def preamble : BitVec 7 := 0b1110010#7
/-- POSTAMBLE `1011000`, its first bit the highest. -/
def postamble : BitVec 7 := 0b1011000#7
/-- DRAINED_STATUS. -/
def drainedStatus : Byte := 0x7F#8
/-- DET_DELAY_MS. -/
def detDelayMs : Nat := 1000
/-- PROD_INITIAL_RANGE, the half-open interval from `prodInitialLo` to `prodInitialHi`. -/
def prodInitialLo : Nat := 0
/-- Upper end of PROD_INITIAL_RANGE, not in it. -/
def prodInitialHi : Nat := 2000
/-- PROD_GAP_RANGE, the half-open interval from `prodGapLo` to `prodGapHi`. -/
def prodGapLo : Nat := 8000
/-- Upper end of PROD_GAP_RANGE, not in it. -/
def prodGapHi : Nat := 12000

/-! ### Parameters the spec leaves OPEN (00_scope.md R3): constants with no body -/

/-- PRN_ZERO; contents not in the source (D32). -/
opaque prnZero : Vector Byte 64
/-- PRN_ONE; contents not in the source (D32). -/
opaque prnOne : Vector Byte 64
/-- PACE_MODE of this build (D29). -/
opaque paceMode : PaceMode
/-- POWER_TABLE of this build (D33). -/
opaque powerTable : PowerTable
/-- POWER_DEFAULT_BYTE (D33). -/
opaque powerDefault : Byte
/-- POWER_RESET (D36). -/
opaque powerReset : Byte
/-- The host addresses for which MEM_OK holds (D17), as a list of regions. -/
opaque readable : List Region

/-! ### Free values (60_exceptions.md R105, R106; 70_reset_and_hazards.md R116) -/

/-- The status byte of the `n`-th draw that no listed answer decides: any of the 256 values (R105). -/
opaque freeStatus : Nat → Byte
/-- The raw number behind the `n`-th `Random` that no listed answer decides (R106). -/
opaque freeRandom : Nat → Nat
/-- Whether the timing service returns from delays when the block comes out of reset (R116). -/
opaque delayReturns : Bool

end Config

/-- The named parameters of 00_scope.md R3. Every state carries its own, so that a statement about all states is
one about all values of the parameters; no step writes them (10_state.md R22 to R24, R28; log 1). -/
structure Build where
  prnZero       : Vector Byte 64
  prnOne        : Vector Byte 64
  paceMode      : PaceMode
  refillQuantum : Nat
  oscMask       : Byte
  strobeIdle    : Byte
  strobeFlush   : Byte
  strobeStart   : Byte
  strobeNop     : Byte
  powerTable    : PowerTable
  powerDefault  : Byte
  powerReset    : Byte
  lenWidth      : Nat
  addrWidth     : Nat
  readable      : List Region
  deriving DecidableEq, Repr, Inhabited

/-- This build: the OPEN parameters opaque, the others at the defaults of 00_scope.md R3.
PRESUMED: the strobe codes and OSC_MASK are the spec's own defaults from general knowledge (93 Part 2; log 10). -/
def Build.default : Build where
  prnZero       := Config.prnZero
  prnOne        := Config.prnOne
  paceMode      := Config.paceMode
  refillQuantum := 1
  oscMask       := 0x80#8
  strobeIdle    := 0x36#8
  strobeFlush   := 0x3B#8
  strobeStart   := 0x35#8
  strobeNop     := 0x3D#8
  powerTable    := Config.powerTable
  powerDefault  := Config.powerDefault
  powerReset    := Config.powerReset
  lenWidth      := 16
  addrWidth     := 32
  readable      := Config.readable

end Sys2Proof
end

