-- ==== Sys2Proof/Syntax.lean ====
section
/-! DEFINITION. The ten host commands of LSTX, one constructor per row of spec/opcode_table.json (30_encoding.md R50). -/

namespace Sys2Proof

/-- A host command. The command word has no operand field: "There are no immediates: every operand is a register
value" (30_encoding.md R48), so no constructor carries data. -/
inductive Instr where
  | encode   -- ENCODE, R63
  | frame    -- FRAME, R72
  | txByte   -- TXBYTE, R89
  | tx       -- TX, R90
  | rawTx    -- RAWTX, R91
  | beginTx  -- BEGIN, R83
  | cont     -- CONT, R84
  | contZ    -- CONTZ, R85
  | endTx    -- END, R86
  | setPwr   -- SETPWR, R93
  deriving DecidableEq, Repr, Inhabited

end Sys2Proof
end

