-- ==== Sys2Proof/WellFormed.lean ====
section
/-! DEFINITION. What is well formed: a command (always: it has no operands), and the parameters of a build (00_scope.md R3). -/

namespace Sys2Proof

/-- A command has no operand field, so every command is well formed (30_encoding.md R48). -/
def Instr.wf (_ : Instr) : Bool := true

/-- POWER_TABLE as a list (10_state.md R23). -/
def PowerTable.entries (t : PowerTable) : List PowerEntry := t.first :: t.rest

/-- Strictly increasing in dBm, from `lo` on. -/
def increasingFrom (lo : Int) : List PowerEntry → Bool
  | [] => true
  | e :: es => decide (lo < e.dbm) && increasingFrom e.dbm es

/-- "strictly increasing in dbm and non-empty" (10_state.md R23). -/
def PowerTable.wf (t : PowerTable) : Bool := increasingFrom t.first.dbm t.rest

/-- "The four codes must be distinct" (30_encoding.md R54). -/
def Build.strobesDistinct (b : Build) : Bool :=
  decide ([b.strobeIdle, b.strobeFlush, b.strobeStart, b.strobeNop].Nodup)

/-- OSC_MASK is "a nonzero subset of 0xF0" (92_eei_decisions.md D21). -/
def Build.oscMaskOk (b : Build) : Bool := b.oscMask != 0#8 && b.oscMask &&& 0x0F#8 == 0#8

/-- "must equal the table byte for 10 dBm if the table has one" (00_scope.md R3). -/
def Build.defaultOk (b : Build) : Bool :=
  b.powerTable.entries.all (fun e => e.dbm != 10 || e.cal == b.powerDefault)

/-- ADDR_WIDTH and LEN_WIDTH fit the 32-bit registers, and LEN_WIDTH counts a 64-byte burst
(10_state.md R6, R19; 43_pacer.md R87). DEDUCED (log 11). -/
def Build.widthsOk (b : Build) : Bool :=
  decide (7 ≤ b.lenWidth) && decide (b.lenWidth ≤ 32) && decide (b.addrWidth ≤ 32)

/-- The parameters are as the spec asks. -/
def Build.wf (b : Build) : Bool :=
  b.powerTable.wf && b.strobesDistinct && b.oscMaskOk && b.defaultOk && b.widthsOk

end Sys2Proof
end

