-- ==== Sys2Proof/Decode.lean ====
section
/-! DEFINITION. The command decoder, total on every 32-bit word and rejecting by name (30_encoding.md R48, R50, R52), and the encoder after it. -/

namespace Sys2Proof

/-- Why a CMD word is illegal (30_encoding.md R52). -/
inductive Reject where
  /-- `w[31:5] ≠ 0`. -/
  | reservedBits
  /-- ZF = 1 with OP ≠ 0x7. -/
  | zeroFillWithoutCont
  /-- OP is 0x0 or 0xA to 0xF. -/
  | reservedOpcode
  deriving DecidableEq, Repr

/-- Field OP of a CMD word, bits [3:0] (R48). -/
def cmdOp (w : Word) : BitVec 4 := w.extractLsb' 0 4

/-- Field ZF of a CMD word, bit [4] (R48). -/
def cmdZf (w : Word) : Bool := w.getLsbD 4

/-- The reserved field of a CMD word, bits [31:5] (R48). -/
def cmdReserved (w : Word) : BitVec 27 := w.extractLsb' 5 27

/-- One row of the command selector map (R50). -/
structure OpRow where
  op    : BitVec 4
  zf    : Bool
  instr : Instr
  deriving DecidableEq, Repr

/-- The command selector map, in the order of R50's table. -/
def opRows : List OpRow :=
  [ ⟨0x1#4, false, .encode⟩,
    ⟨0x2#4, false, .frame⟩,
    ⟨0x3#4, false, .txByte⟩,
    ⟨0x4#4, false, .tx⟩,
    ⟨0x5#4, false, .rawTx⟩,
    ⟨0x6#4, false, .beginTx⟩,
    ⟨0x7#4, false, .cont⟩,
    ⟨0x7#4, true,  .contZ⟩,
    ⟨0x8#4, false, .endTx⟩,
    ⟨0x9#4, false, .setPwr⟩ ]

/-- The command named by (OP, ZF), if any (R50). -/
def selectCommand (op : BitVec 4) (zf : Bool) : Option Instr :=
  (opRows.find? (fun r => r.op == op && r.zf == zf)).map OpRow.instr

/-- The command a CMD word names, or why it is illegal (R50, R52). -/
def decodeWord (w : Word) : Except Reject Instr :=
  if cmdReserved w = 0#27 then
    match selectCommand (cmdOp w) (cmdZf w) with
    | some i => .ok i
    | none => if cmdZf w then .error .zeroFillWithoutCont else .error .reservedOpcode
  else .error .reservedBits

/-- `legal(w)` as 30_encoding.md R51 writes it. -/
def legalWord (w : Word) : Bool :=
  cmdReserved w == 0#27 &&
    ((!cmdZf w && decide (1 ≤ (cmdOp w).toNat) && decide ((cmdOp w).toNat ≤ 9)) || (cmdZf w && cmdOp w == 0x7#4))

/-- A machine word of the opcode table read as a CMD word: bits numbered from the least significant, the bits above
`nbits` zero. A table word wider than the 32-bit CMD register is no command. -/
def decodeTableWord (nbits w : Nat) : Option Instr :=
  if nbits ≤ 32 then (decodeWord (BitVec.ofNat 32 (w % 2 ^ nbits))).toOption else none

/-! ### The encoder -/

/-- OP of a command (R50). -/
def Instr.op : Instr → BitVec 4
  | .encode => 0x1#4
  | .frame => 0x2#4
  | .txByte => 0x3#4
  | .tx => 0x4#4
  | .rawTx => 0x5#4
  | .beginTx => 0x6#4
  | .cont => 0x7#4
  | .contZ => 0x7#4
  | .endTx => 0x8#4
  | .setPwr => 0x9#4

/-- ZF of a command: 1 only for CONTZ (R48, R50). -/
def Instr.zf : Instr → Bool
  | .contZ => true
  | .encode => false
  | .frame => false
  | .txByte => false
  | .tx => false
  | .rawTx => false
  | .beginTx => false
  | .cont => false
  | .endTx => false
  | .setPwr => false

/-- The one word of a command, `zext_32({ZF, OP})` (R50). -/
def encodeWord (i : Instr) : Word := (BitVec.ofBool i.zf ++ i.op : BitVec 5).setWidth 32

end Sys2Proof
end

