-- ==== Sys2Proof/Machine/State.lean ====
section
/-! DEFINITION. The state of LSTX as plain data (10_state.md), its events (R25), its sequencer position (R20), the inputs from outside, the reasons to stop, and the state after reset (R28). -/

namespace Sys2Proof.Machine

/-- One entry of TRACE (10_state.md R25). -/
inductive Event where
  /-- Command code `c` sent, status `s` returned. -/
  | strobe (c s : Byte)
  /-- The bytes appended to the device FIFO. -/
  | writeBuf (bs : List Byte)
  /-- `n` zero bytes appended to the device FIFO. -/
  | writeZeros (n : Nat)
  /-- A delay of at least `ms` milliseconds. -/
  | delay (ms : Nat)
  /-- The draw `r` of `randomInRange(lo, hi)`. -/
  | random (lo hi r : Nat)
  /-- Host memory byte `v` read at `a`. -/
  | memRead (a : Nat) (v : Byte)
  deriving DecidableEq, Repr

/-- STATUS.PHASE (10_state.md R10). The reserved codes 5 to 7 are never produced, so they have no constructor. -/
inductive Phase where
  | idle
  | flushing
  | initialFill
  | streaming
  | draining
  deriving DecidableEq, Repr

/-- STATUS.ERR (10_state.md R11). The reserved codes 4 to 7 are never produced, so they have no constructor. -/
inductive Err where
  | none
  | illegalCmd
  | cmdWhileBusy
  | memFault
  deriving DecidableEq, Repr

/-! ### The sequencer position SEQ (10_state.md R20): pseudocode line and loop indices, procedure by procedure -/

/-- A point in `refill` (42_fifo_stream.md R76). -/
inductive RefillPoint where
  /-- Before the Delay of the first pass: PHASE is still to become STREAMING. -/
  | enter (off rem : Nat)
  /-- Before the Delay of a later pass. -/
  | delay (off rem : Nat)
  /-- Before the NOP strobe of a pass. -/
  | poll (off rem : Nat)
  /-- In `write_chunk(src, off, n)` (R75), the bytes `buf` already read. -/
  | chunk (off rem n : Nat) (buf : List Byte)
  deriving DecidableEq, Repr

/-- A point in `begin` (42_fifo_stream.md R77). -/
inductive BeginPoint where
  /-- Before the first NOP strobe of the idle wait. -/
  | enter
  /-- Before a later NOP strobe of the idle wait. -/
  | idleWait
  /-- Before the FLUSH_TX strobe. -/
  | flush
  /-- In the first `write_chunk`, the bytes `buf` already read. -/
  | fill (buf : List Byte)
  /-- Before the START_TX strobe. -/
  | start
  /-- Before a NOP strobe of the oscillator wait. -/
  | oscWait
  /-- In the refill of the bytes past the first 64. -/
  | refill (p : RefillPoint)
  deriving DecidableEq, Repr

/-- A point in `end` (42_fifo_stream.md R78). -/
inductive EndPoint where
  /-- Before the first NOP strobe of the drain wait. -/
  | enter
  /-- Before a later NOP strobe of the drain wait. -/
  | drainWait
  /-- Before the IDLE strobe. -/
  | idle
  deriving DecidableEq, Repr

/-- A point in `transmit_byte` (43_pacer.md R87). -/
inductive FramePoint where
  /-- In the begin that sends frame bit 0. -/
  | first (p : BeginPoint)
  /-- In the refill that sends frame bit `k`. -/
  | burst (k : Nat) (p : RefillPoint)
  /-- In the closing end. -/
  | last (p : EndPoint)
  deriving DecidableEq, Repr

/-- A point in RAWTX (43_pacer.md R91). -/
inductive RawPoint where
  | stream (p : BeginPoint)
  | close (p : EndPoint)
  deriving DecidableEq, Repr

/-- A point in TX (43_pacer.md R90). -/
inductive TxPoint where
  /-- Before the command's first step. -/
  | start
  /-- PRODUCTION: before `Delay(r0)`. -/
  | leadDelay (r0 : Nat)
  /-- Before the MemRead of source byte `i`. -/
  | read (i : Nat)
  /-- In the frame of source byte `i`, whose value is `d`. -/
  | frame (i : Nat) (d : Byte) (p : FramePoint)
  /-- PRODUCTION: before the Random draw after byte `i`. -/
  | gapDraw (i : Nat)
  /-- Before the pacing Delay of `ms` after byte `i`. -/
  | gapDelay (i ms : Nat)
  deriving DecidableEq, Repr

/-- SEQ while a command runs: the command and the point reached in it (10_state.md R20). -/
inductive Running where
  | encode
  | frame
  | txByte (p : FramePoint)
  | tx (p : TxPoint)
  | rawTx (p : RawPoint)
  | beginTx (p : BeginPoint)
  | cont (p : RefillPoint)
  | contZ (p : RefillPoint)
  | endTx (p : EndPoint)
  | setPwr
  deriving DecidableEq, Repr

/-- One move from outside LSTX, or one turn of the sequencer (60_exceptions.md R107; 70_reset_and_hazards.md R113, R116).
The list of them in `State.inputs` says which agent moves next (log 5). -/
inductive Input where
  /-- The sequencer takes its next step. -/
  | turn
  /-- A host store of `v`, `width` bytes wide, to the register block at `off` from REG_BASE. -/
  | store (off width : Nat) (v : Word)
  /-- A host load, `width` bytes wide, from the register block at `off` from REG_BASE. -/
  | load (off width : Nat)
  /-- `WAIT`: poll STATUS until BUSY = 0 (30_encoding.md R56). -/
  | wait
  /-- The host writes byte `v` of its own memory at `a`. -/
  | memWrite (a : Nat) (v : Byte)
  /-- The platform asserts reset (R113). -/
  | reset
  /-- From now on the timing service returns (or does not return) from delays (R116). -/
  | timer (returns : Bool)
  deriving DecidableEq, Repr

/-- Why the machine stops with a fault. LSTX's own memory fault (60_exceptions.md R97) is not among them: it is a
next state with FAULT = 1. -/
inductive Fault where
  /-- Raised by a command's meaning (`exec`) that is called where SEQ is not a point of that command. `step` never calls it
  so: it runs the command SEQ names. Safe: the model stops where the spec has no such step (log 12). -/
  | notSequenced
  deriving DecidableEq, Repr

/-- Why a move is refused. -/
inductive Refusal where
  /-- Raised by an arm of `exec` whose command has no meaning yet. Safe: the model stops. -/
  | notModelled (mnemonic : String)
  /-- Raised by a host access to the register block that is not 32 bits wide; "the model refuses it" (20_memory.md R30). Safe. -/
  | registerWidth (width : Nat)
  /-- Raised by a host access to an offset that names no register; "the model refuses it" (20_memory.md R31). Safe. -/
  | registerOffset (off : Nat)
  /-- Raised by a host write outside the `2^ADDR_WIDTH` bytes of host memory (20_memory.md R29). Safe (log 17). -/
  | hostAddress (a : Nat)
  deriving DecidableEq, Repr

/-- The machine: every piece of state of 10_state.md, the parameters, host memory, and the model's own input fields. -/
structure State where
  -- STATUS (R8 to R12), field by field
  busy          : Bool
  fault         : Bool
  phase         : Phase
  err           : Err
  lastDev       : Byte
  -- the other registers of the host block (R14 to R19, R6)
  argData       : Byte
  argAddr       : Word
  argLen        : Word
  result        : BitVec 30
  power         : Byte
  sessWritten   : Word
  sessRemaining : Word
  faultAddr     : Word
  -- sequencer position and latches (R20, R21)
  seq           : Option Running
  lOp           : BitVec 4
  lZf           : Bool
  lData         : Byte
  lAddr         : Word
  lLen          : Word
  -- observable output, oldest event first (R25)
  trace         : List Event
  -- read-only tables and parameters (R22 to R24, R3)
  build         : Build
  -- host memory (20_memory.md R29), the host's
  mem           : List Host.Cell
  -- the model's own: what comes from outside, oldest first
  inputs        : List Input
  devIn         : List Byte
  rndIn         : List Nat
  devDraws      : Nat
  rndDraws      : Nat
  delayReturns  : Bool
  busData       : Word
  deriving DecidableEq, Repr

/-- The machine right after reset (10_state.md R28, 70_reset_and_hazards.md R114).
DESIGN CHOICE: the latches, which R28 leaves unspecified, hold 0 (log 7), and host memory lists nothing (log 9);
nothing is pending from outside (log 2, log 3, log 5, log 16). -/
def State.reset : State where
  busy          := false
  fault         := false
  phase         := .idle
  err           := .none
  lastDev       := 0#8
  argData       := 0#8
  argAddr       := 0#32
  argLen        := 0#32
  result        := 0#30
  power         := Build.default.powerReset
  sessWritten   := 0#32
  sessRemaining := 0#32
  faultAddr     := 0#32
  seq           := none
  lOp           := 0#4
  lZf           := false
  lData         := 0#8
  lAddr         := 0#32
  lLen          := 0#32
  trace         := []
  build         := Build.default
  mem           := []
  inputs        := []
  devIn         := []
  rndIn         := []
  devDraws      := 0
  rndDraws      := 0
  delayReturns  := Config.delayReturns
  busData       := 0#32

end Sys2Proof.Machine
end

