-- ==== Sys2Proof/Machine/Flags.lean ====
section
/-! DEFINITION. LSTX has no condition codes (10_state.md R26). Here stand the decoding of the device status byte (30_encoding.md R55) and the STATUS word the host reads (10_state.md R8 to R13). -/

namespace Sys2Proof.Machine

/-! ### The device status byte (R55) -/

/-- `chipstate(s)` = s[7:4]. -/
def chipState (s : Byte) : BitVec 4 := s.extractLsb' 4 4

/-- `free(s)` = s[3:0], a count 0 to 15. -/
def freeSlots (s : Byte) : Nat := (s.extractLsb' 0 4).toNat

/-- `is_idle(s)`. -/
def isIdle (s : Byte) : Bool := chipState s == 0#4

/-- `osc_stable(s)`, under the build's OSC_MASK. -/
def oscStable (mask s : Byte) : Bool := s &&& mask == 0#8

/-- `is_drained(s)`. -/
def isDrained (s : Byte) : Bool := s == Config.drainedStatus

/-! ### The STATUS word -/

/-- STATUS[4:2] (R10). -/
def phaseCode : Phase → BitVec 3
  | .idle => 0#3
  | .flushing => 1#3
  | .initialFill => 2#3
  | .streaming => 3#3
  | .draining => 4#3

/-- STATUS[10:8] (R11). -/
def errCode : Err → BitVec 3
  | .none => 0#3
  | .illegalCmd => 1#3
  | .cmdWhileBusy => 2#3
  | .memFault => 3#3

/-- The word a host load of STATUS returns: LAST_DEV [23:16], ERR [10:8], PHASE [4:2], FAULT [1], BUSY [0], all
other bits 0 (R8 to R13). -/
def State.statusWord (s : State) : Word :=
  (0#8 ++ s.lastDev ++ 0#5 ++ errCode s.err ++ 0#3 ++ phaseCode s.phase ++ BitVec.ofBool s.fault ++ BitVec.ofBool s.busy : BitVec 32)

end Sys2Proof.Machine
end

