-- ==== Sys2Proof/Machine/Operands.lean ====
section
/-! DEFINITION. Every operand form of LSTX: the latched operands (30_encoding.md R49), the widths of address and length (10_state.md R15, R16, R19), the admission of a source read (20_memory.md R37), the stream sources (42_fifo_stream.md R74). -/

namespace Sys2Proof.Machine

/-! ### Widths -/

/-- A natural number cut to `width` bits, as a register word. -/
def cutTo (width n : Nat) : Word := BitVec.ofNat 32 (n % 2 ^ width)

/-- A value of an ADDR_WIDTH-bit register (R15): "Bits above ADDR_WIDTH-1 are reserved". -/
def State.addrCut (s : State) (n : Nat) : Word := cutTo s.build.addrWidth n

/-- A value of a LEN_WIDTH-bit register (R16, R19). -/
def State.lenCut (s : State) (n : Nat) : Word := cutTo s.build.lenWidth n

/-! ### Operands of the running command, from the latches alone (R21, R49) -/

/-- `data` = L_DATA, an unsigned byte. -/
def State.opData (s : State) : Byte := s.lData

/-- `dbm` = sext_32(L_DATA), -128 to 127. -/
def State.opDbm (s : State) : Int := (s.lData.signExtend 32).toInt

/-- The address of source byte 0, L_ADDR. -/
def State.opBase (s : State) : Nat := s.lAddr.toNat

/-- `length` = L_LEN, unsigned. -/
def State.opLength (s : State) : Nat := s.lLen.toNat

/-! ### Admission of a source read -/

/-- MEM_OK(a) of this build (00_scope.md R3; log 8). -/
def memOk (b : Build) (a : Nat) : Bool :=
  b.readable.any (fun r => decide (r.base ≤ a) && decide (a < r.base + r.size))

/-- `MemRead(a, 1)` "is admitted only if a < 2^ADDR_WIDTH and MEM_OK(a) holds" (R37). -/
def admits (b : Build) (a : Nat) : Bool :=
  decide (a < 2 ^ b.addrWidth) && memOk b a

/-! ### Stream sources -/

/-- A stream source (R74). -/
inductive Src where
  /-- `MEM(base)`. -/
  | mem (base : Nat)
  /-- `ROM(t)`. -/
  | rom (t : Prn)
  /-- `ZERO`: no source. -/
  | zero
  deriving DecidableEq, Repr

/-- The bytes of a PRN sequence, index 0 first (R22, 20_memory.md R35). -/
def prnBytes (b : Build) : Prn → List Byte
  | .zero => b.prnZero.toList
  | .one => b.prnOne.toList

/-- Bytes `off` to `off + n - 1` of a PRN sequence. -/
def romSlice (b : Build) (t : Prn) (off n : Nat) : List Byte :=
  ((prnBytes b t).drop off).take n

end Sys2Proof.Machine
end

