-- ==== Sys2Proof/Machine/Ops.lean ====
section
/-! DEFINITION. The shared operations: host memory in canonical form, the events of the sequencer (00_scope.md R5), taking a memory fault (60_exceptions.md R97), completion (30_encoding.md R53), acceptance of a CMD write (R51), and the reset event (70_reset_and_hazards.md R113). -/

namespace Sys2Proof.Machine

/-! ### Host memory: cells with rising addresses, none equal to what an unlisted byte reads as -/

/-- What a byte of host memory that nothing has written reads as. DESIGN CHOICE: the spec gives no contents (log 9). -/
def Memory.unlisted : Byte := 0#8

/-- The byte at `a`. -/
def Memory.read : List Host.Cell → Nat → Byte
  | [], _ => Memory.unlisted
  | (b, v) :: cs, a => if a = b then v else Memory.read cs a

/-- Memory with byte `v` at `a`, in canonical form again. -/
def Memory.write : List Host.Cell → Nat → Byte → List Host.Cell
  | [], a, v => if v = Memory.unlisted then [] else [(a, v)]
  | (b, u) :: cs, a, v =>
    if a < b then (if v = Memory.unlisted then (b, u) :: cs else (a, v) :: (b, u) :: cs)
    else if a = b then (if v = Memory.unlisted then cs else (a, v) :: cs)
    else (b, u) :: Memory.write cs a v

/-- The cells' addresses rise strictly from `lo` on, and no cell holds the unlisted value. -/
def Memory.wfFrom : Nat → List Host.Cell → Bool
  | _, [] => true
  | lo, (a, v) :: cs => decide (lo ≤ a) && v != Memory.unlisted && Memory.wfFrom (a + 1) cs

/-- The canonical form of host memory. -/
def Memory.wf (m : List Host.Cell) : Bool := Memory.wfFrom 0 m

/-! ### Register writes of the sequencer -/

/-- SEQ <- `q`. -/
def goto (q : Running) (s : State) : State := { s with seq := some q }

/-- PHASE <- `p`. -/
def setPhase (p : Phase) (s : State) : State := { s with phase := p }

/-- RESULT <- `v`. -/
def setResult (v : BitVec 30) (s : State) : State := { s with result := v }

/-- POWER <- `v`. -/
def setPower (v : Byte) (s : State) : State := { s with power := v }

/-- SESS_WRITTEN <- 0, SESS_REMAINING <- `len` (42_fifo_stream.md R77, R84). -/
def openCount (len : Nat) (s : State) : State :=
  { s with sessWritten := 0#32, sessRemaining := s.lenCut len }

/-- SESS_WRITTEN <- SESS_WRITTEN + `n`, SESS_REMAINING <- SESS_REMAINING - `n` (R75), LEN_WIDTH bits each (10_state.md R19). -/
def countWritten (n : Nat) (s : State) : State :=
  { s with
    sessWritten := s.lenCut (s.sessWritten.toNat + n)
    sessRemaining := s.lenCut (s.sessRemaining - BitVec.ofNat 32 n).toNat }

/-- Completion: BUSY <- 0 and SEQ <- NONE, in the step of the command's last event or write (30_encoding.md R53). -/
def complete (s : State) : State := { s with busy := false, seq := none }

/-! ### Events (00_scope.md R5; each is one step) -/

/-- Append one event to TRACE (10_state.md R25). -/
def emit (e : Event) (s : State) : State := { s with trace := s.trace ++ [e] }

/-- The status byte the next strobe returns: the next listed answer, else a free value (60_exceptions.md R105; log 2). -/
def State.nextStatus (s : State) : Byte :=
  match s.devIn with
  | b :: _ => b
  | [] => Config.freeStatus s.devDraws

/-- `Strobe(c)`: the event, and LAST_DEV <- the status returned (10_state.md R12, 42_fifo_stream.md R73). -/
def strobe (c : Byte) (s : State) : State :=
  { s with
    trace := s.trace ++ [.strobe c s.nextStatus]
    lastDev := s.nextStatus
    devIn := s.devIn.tail
    devDraws := if s.devIn.isEmpty then s.devDraws + 1 else s.devDraws }

/-- The raw number behind the next `Random`: the next listed one, else a free value (60_exceptions.md R106; log 3). -/
def State.nextRaw (s : State) : Nat :=
  match s.rndIn with
  | x :: _ => x
  | [] => Config.freeRandom s.rndDraws

/-- The draw of `Random(lo, hi)`, "r with lo <= r < hi": every value of the range is the draw of some raw number (R106; log 3). -/
def State.nextRandom (s : State) (lo hi : Nat) : Nat := lo + s.nextRaw % (hi - lo)

/-- `Random(lo, hi)`: the event. -/
def randomEvent (lo hi : Nat) (s : State) : State :=
  { s with
    trace := s.trace ++ [.random lo hi (s.nextRandom lo hi)]
    rndIn := s.rndIn.tail
    rndDraws := if s.rndIn.isEmpty then s.rndDraws + 1 else s.rndDraws }

/-- `Delay(ms)`, then what its step also does and what follows it (`after`). Where the timing service does not return
from the delay, LSTX "hangs in it": the step changes nothing (70_reset_and_hazards.md R116, 93 Part 1 "stuck"; log 4). -/
def delayThen (ms : Nat) (after : State → State) (s : State) : State :=
  if s.delayReturns then after (emit (.delay ms) s) else s

/-- `WriteBuf(bs)`, the write event of a chunk of `n` bytes, with the counters of R75. -/
def writeBuf (n : Nat) (bs : List Byte) (s : State) : State := countWritten n (emit (.writeBuf bs) s)

/-- `WriteZeros(n)`, the write event of a chunk of `n` zero bytes, with the counters of R75. -/
def writeZeros (n : Nat) (s : State) : State := countWritten n (emit (.writeZeros n) s)

/-- `raise MemFault(a)`: what one step does, and nothing else (60_exceptions.md R97). There is no handler to go to (R94). -/
def raiseMemFault (a : Nat) (s : State) : State :=
  { s with fault := true, err := .memFault, faultAddr := s.addrCut a, busy := false, seq := none }

/-- `v <- MemRead(a, 1)`, then what its step also does and what follows it (`after v`); not admitted, it raises
MemFault instead and appends no event (20_memory.md R37). -/
def memReadThen (a : Nat) (after : Byte → State → State) (s : State) : State :=
  if admits s.build a then after (Memory.read s.mem a) (emit (.memRead a (Memory.read s.mem a)) s)
  else raiseMemFault a s

/-! ### Acceptance (30_encoding.md R51) -/

/-- The command SEQ is in (10_state.md R20). -/
def Running.command : Running → Instr
  | .encode => .encode
  | .frame => .frame
  | .txByte _ => .txByte
  | .tx _ => .tx
  | .rawTx _ => .rawTx
  | .beginTx _ => .beginTx
  | .cont _ => .cont
  | .contZ _ => .contZ
  | .endTx _ => .endTx
  | .setPwr => .setPwr

/-- "first step of the command": its first point, for a latched length `len` (R51). -/
def firstPoint (len : Nat) : Instr → Running
  | .encode => .encode
  | .frame => .frame
  | .txByte => .txByte (.first .enter)
  | .tx => .tx .start
  | .rawTx => .rawTx (.stream .enter)
  | .beginTx => .beginTx .enter
  | .cont => .cont (.enter 0 len)
  | .contZ => .contZ (.enter 0 len)
  | .endTx => .endTx .enter
  | .setPwr => .setPwr

/-- The last case of R51: the word `w`, which names command `i`, is accepted. The latches take the operands (10_state.md R21). -/
def accept (w : Word) (i : Instr) (s : State) : State :=
  { s with
    err := .none
    lOp := cmdOp w
    lZf := cmdZf w
    lData := s.argData
    lAddr := s.argAddr
    lLen := s.argLen
    busy := true
    seq := some (firstPoint s.argLen.toNat i) }

/-- A host write of `w` to CMD: the cases of R51 in their order. -/
def cmdWrite (w : Word) (s : State) : State :=
  if s.fault then s
  else if s.busy then { s with err := .cmdWhileBusy }
  else
    match decodeWord w with
    | .ok i => accept w i s
    | .error _ => { s with err := .illegalCmd }

/-! ### The reset event (70_reset_and_hazards.md R113) -/

/-- "every piece of state takes its value from 10_state.md rule R28 and TRACE is emptied". The parameters keep their
values; host memory and what is pending outside LSTX are no state of LSTX and stay (log 21).
DESIGN CHOICE: the latches, unspecified in R28, are cleared as in `State.reset` (log 7). -/
def resetEvent (s : State) : State :=
  { s with
    busy := false, fault := false, phase := .idle, err := .none, lastDev := 0#8
    argData := 0#8, argAddr := 0#32, argLen := 0#32, result := 0#30, power := s.build.powerReset
    sessWritten := 0#32, sessRemaining := 0#32, faultAddr := 0#32
    seq := none, lOp := 0#4, lZf := false, lData := 0#8, lAddr := 0#32, lLen := 0#32
    trace := [] }

end Sys2Proof.Machine
end

