-- ==== Sys2Proof/Machine/Fec.lean ====
section
/-! DEFINITION. The FEC encoder (40_fec.md) and the command ENCODE. -/

namespace Sys2Proof.Machine

/-- Bit 7 of `fec d` (R57). -/
def fecP7 (d : Byte) : Bool := d.getLsbD 7 ^^ d.getLsbD 5 ^^ d.getLsbD 2 ^^ d.getLsbD 0
/-- Bit 6 of `fec d` (R57). -/
def fecP6 (d : Byte) : Bool :=
  d.getLsbD 6 ^^ d.getLsbD 5 ^^ d.getLsbD 4 ^^ d.getLsbD 2 ^^ d.getLsbD 1 ^^ d.getLsbD 0
/-- Bit 5 of `fec d` (R57). -/
def fecP5 (d : Byte) : Bool := d.getLsbD 4 ^^ d.getLsbD 3 ^^ d.getLsbD 2 ^^ d.getLsbD 1
/-- Bit 4 of `fec d` (R57). -/
def fecP4 (d : Byte) : Bool :=
  d.getLsbD 7 ^^ d.getLsbD 3 ^^ d.getLsbD 2 ^^ d.getLsbD 1 ^^ d.getLsbD 0
/-- Bit 3 of `fec d` (R57). -/
def fecP3 (d : Byte) : Bool := d.getLsbD 7 ^^ d.getLsbD 6 ^^ d.getLsbD 5 ^^ d.getLsbD 1
/-- Bit 2 of `fec d` (R57). -/
def fecP2 (d : Byte) : Bool :=
  d.getLsbD 7 ^^ d.getLsbD 6 ^^ d.getLsbD 5 ^^ d.getLsbD 4 ^^ d.getLsbD 0
/-- Bit 1 of `fec d` (R57). -/
def fecP1 (d : Byte) : Bool :=
  d.getLsbD 7 ^^ d.getLsbD 6 ^^ d.getLsbD 4 ^^ d.getLsbD 3 ^^ d.getLsbD 2 ^^ d.getLsbD 0
/-- Bit 0 of `fec d` (R57). -/
def fecP0 (d : Byte) : Bool := d.getLsbD 5 ^^ d.getLsbD 4 ^^ d.getLsbD 3 ^^ d.getLsbD 0

/-- The parity byte of a data byte, p7 in bit 7 (R57, R58). -/
def fec (d : Byte) : Byte :=
  BitVec.ofBool (fecP7 d) ++ BitVec.ofBool (fecP6 d) ++ BitVec.ofBool (fecP5 d) ++ BitVec.ofBool (fecP4 d) ++
    BitVec.ofBool (fecP3 d) ++ BitVec.ofBool (fecP2 d) ++ BitVec.ofBool (fecP1 d) ++ BitVec.ofBool (fecP0 d)

/-- parity(x): "the XOR of the bits of x" (R59). -/
def parity (x : Byte) : Bool :=
  (List.range 8).foldl (fun acc k => acc ^^ x.getLsbD k) false

/-- The mask M_j of parity bit j, for j below 8 (R59's table, p0 first). -/
def fecMask (j : Nat) : Byte :=
  ([0x39#8, 0xDD#8, 0xF1#8, 0xE2#8, 0x8F#8, 0x1E#8, 0x77#8, 0xA5#8] : List Byte).getD j 0#8

/-- The number of 1 bits of a byte (R61). -/
def weight (x : Byte) : Nat := (List.range 8).foldl (fun n k => n + (x.getLsbD k).toNat) 0

/-- ENCODE (R63): one silent step. -/
def execEncode (s : State) : Host.Outcome State Fault Refusal :=
  match s.seq with
  | some .encode => .next (complete (setResult ((fec s.opData).setWidth 30) s))
  | _ => .fault .notSequenced

end Sys2Proof.Machine
end

