-- ==== Sys2Proof/Machine/Modulator.lean ====
section
/-! DEFINITION. The chip modulator (41_modulator.md) and the command FRAME. -/

namespace Sys2Proof.Machine

/-- The bits of a vector, most significant first: `msb8` of R64, for any width. -/
def bitsMsbFirst {w : Nat} (v : BitVec w) : List Bool :=
  (List.range w).map (fun k => v.getLsbD (w - 1 - k))

/-- `frame(d)`: the 30 logical bits of a data byte, first bit first (R64). -/
def frame (d : Byte) : List Bool :=
  bitsMsbFirst Config.preamble ++ bitsMsbFirst (fec d) ++ bitsMsbFirst d ++ bitsMsbFirst Config.postamble

/-- `frame(d)[k]`, for k below 30 (R65). -/
def frameBit (d : Byte) (k : Nat) : Bool := (frame d).getD k false

/-- `frame_word(d)`: the frame as a 30-bit value, first bit in bit 29 (R66). -/
def frameWord (d : Byte) : BitVec 30 :=
  (Config.preamble ++ fec d ++ d ++ Config.postamble : BitVec 30)

/-- `prn(b)` (R67). -/
def prnFor (b : Bool) : Prn := if b then .one else .zero

/-- The PRN sequence that frame position `k` of data byte `d` selects (R68). -/
def burstPrn (d : Byte) (k : Nat) : Prn := prnFor (frameBit d k)

/-- `burst(d, k)`: the chip-burst of frame position `k` (R68). -/
def burst (b : Build) (d : Byte) (k : Nat) : List Byte := prnBytes b (burstPrn d k)

/-- The chip stream of one data byte (R69). -/
def chipStream (b : Build) (d : Byte) : List Byte :=
  ((List.range Config.frameBits).map (burst b d)).flatten

/-- FRAME (R72): one silent step. -/
def execFrame (s : State) : Host.Outcome State Fault Refusal :=
  match s.seq with
  | some .frame => .next (complete (setResult (frameWord s.opData) s))
  | _ => .fault .notSequenced

end Sys2Proof.Machine
end

