-- ==== Sys2Proof/Machine/FifoStream.lean ====
section
/-! DEFINITION. The FIFO streaming transmitter (42_fifo_stream.md): write_chunk, refill, begin and end, one event a step, and the commands BEGIN, CONT, CONTZ and END.

Each procedure takes the point it is at and performs the one event that stands there. `at` says how its points are
named inside the running command, `after` what the step of its last event also does: completing the command, or
moving SEQ to the procedure that follows. -/

namespace Sys2Proof.Machine

/-- `write_chunk(src, off, n)` with the bytes `buf` already read (R75): the next MemRead, or the write event.
`onRead` and `onWrite` follow in the same step. -/
def chunkStep (src : Src) (off n : Nat) (buf : List Byte) (onRead : List Byte → State → State)
    (onWrite : State → State) (s : State) : State :=
  match src with
  | .zero => onWrite (writeZeros n s)
  | .rom t => onWrite (writeBuf n (romSlice s.build t off n) s)
  | .mem base =>
    if buf.length < n then
      memReadThen (base + off + buf.length) (fun v s' => onRead (buf ++ [v]) s') s
    else onWrite (writeBuf n buf s)

/-- "with: if first then PHASE <- STREAMING" (R76), and, for the refills that R84 and R87 start anew, the session counters
"with the first event". -/
def refillOpen (restart : Bool) (rem : Nat) (s : State) : State :=
  setPhase .streaming (if restart then openCount rem s else s)

/-- One step of `refill(src, off, rem)` (R76). -/
def refillStep (src : Src) (restart : Bool) (at' : RefillPoint → Running) (after : State → State) :
    RefillPoint → State → State
  | .enter off rem, s =>
    delayThen s.build.refillQuantum (fun s' => goto (at' (.poll off rem)) (refillOpen restart rem s')) s
  | .delay off rem, s => delayThen s.build.refillQuantum (goto (at' (.poll off rem))) s
  | .poll off rem, s =>
    goto (at' (.chunk off rem (min (freeSlots s.nextStatus) rem) [])) (strobe s.build.strobeNop s)
  | .chunk off rem n buf, s =>
    chunkStep src off n buf (fun buf' => goto (at' (.chunk off rem n buf')))
      (if rem - n = 0 then after else goto (at' (.delay (off + n) (rem - n)))) s

/-- A NOP strobe of the idle wait, and where it leads (R77). -/
def idlePoll (at' : BeginPoint → Running) (s : State) : State :=
  goto (at' (if isIdle s.nextStatus then .flush else .idleWait)) (strobe s.build.strobeNop s)

/-- PHASE <- INITIAL_FILL with the chunk's first step (R77), which is the step before which no byte is read. -/
def markFill (buf : List Byte) (s : State) : State :=
  if buf.isEmpty then setPhase .initialFill s else s

/-- One step of `begin(src, len)` (R77). -/
def beginStep (src : Src) (len : Nat) (at' : BeginPoint → Running) (after : State → State) :
    BeginPoint → State → State
  | .enter, s => openCount len (setPhase .flushing (idlePoll at' s))
  | .idleWait, s => idlePoll at' s
  | .flush, s => goto (at' (.fill [])) (strobe s.build.strobeFlush s)
  | .fill buf, s =>
    chunkStep src 0 (min len Config.fifoCapacity) buf
      (fun buf' s' => goto (at' (.fill buf')) (markFill buf s'))
      (fun s' => goto (at' .start) (markFill buf s')) s
  | .start, s =>
    (if len ≤ Config.fifoCapacity then after else goto (at' .oscWait)) (strobe s.build.strobeStart s)
  | .oscWait, s =>
    goto
      (at' (if oscStable s.build.oscMask s.nextStatus
        then .refill (.enter Config.fifoCapacity (len - Config.fifoCapacity)) else .oscWait))
      (strobe s.build.strobeNop s)
  | .refill p, s => refillStep src false (fun q => at' (.refill q)) after p s

/-- A NOP strobe of the drain wait, and where it leads (R78). -/
def drainPoll (at' : EndPoint → Running) (s : State) : State :=
  goto (at' (if isDrained s.nextStatus then .idle else .drainWait)) (strobe s.build.strobeNop s)

/-- One step of `end()` (R78). -/
def endStep (at' : EndPoint → Running) (after : State → State) : EndPoint → State → State
  | .enter, s => setPhase .draining (drainPoll at' s)
  | .drainWait, s => drainPoll at' s
  | .idle, s => after (setPhase .idle (strobe s.build.strobeIdle s))

/-- One step of CONT or CONTZ (R84, R85): a refill from source index 0, or the one silent step of a zero length. -/
def contStep (src : Src) (at' : RefillPoint → Running) (p : RefillPoint) (s : State) : State :=
  if p = .enter 0 0 then complete (openCount 0 s) else refillStep src true at' complete p s

/-- BEGIN (R83). -/
def execBegin (s : State) : Host.Outcome State Fault Refusal :=
  match s.seq with
  | some (.beginTx p) => .next (beginStep (.mem s.opBase) s.opLength .beginTx complete p s)
  | _ => .fault .notSequenced

/-- CONT (R84). -/
def execCont (s : State) : Host.Outcome State Fault Refusal :=
  match s.seq with
  | some (.cont p) => .next (contStep (.mem s.opBase) .cont p s)
  | _ => .fault .notSequenced

/-- CONTZ (R85). -/
def execContZ (s : State) : Host.Outcome State Fault Refusal :=
  match s.seq with
  | some (.contZ p) => .next (contStep .zero .contZ p s)
  | _ => .fault .notSequenced

/-- END (R86). -/
def execEnd (s : State) : Host.Outcome State Fault Refusal :=
  match s.seq with
  | some (.endTx p) => .next (endStep .endTx complete p s)
  | _ => .fault .notSequenced

end Sys2Proof.Machine
end

