-- ==== Sys2Proof/Machine/Pacer.lean ====
section
/-! DEFINITION. The transmission pacer (43_pacer.md): one frame, the commands TXBYTE, TX and RAWTX, and the power lookup with SETPWR. -/

namespace Sys2Proof.Machine

/-- The length of a chip-burst, PRN_LEN bytes (00_scope.md R2). -/
def burstLen : Nat := 64

/-- One step of `transmit_byte(d)` (R87). `at'` and `after` as in the stream procedures. -/
def frameStep (d : Byte) (at' : FramePoint → Running) (after : State → State) : FramePoint → State → State
  | .first p, s =>
    beginStep (.rom (burstPrn d 0)) burstLen (fun q => at' (.first q)) (goto (at' (.burst 1 (.enter 0 burstLen)))) p s
  | .burst k p, s =>
    refillStep (.rom (burstPrn d k)) true (fun q => at' (.burst k q))
      (goto (at' (if k + 1 < Config.frameBits then .burst (k + 1) (.enter 0 burstLen) else .last .enter))) p s
  | .last p, s => endStep (fun q => at' (.last q)) after p s

/-- TXBYTE (R89). -/
def execTxByte (s : State) : Host.Outcome State Fault Refusal :=
  match s.seq with
  | some (.txByte p) => .next (frameStep s.opData .txByte complete p s)
  | _ => .fault .notSequenced

/-- The MemRead of source byte `i`, which opens the byte's frame (R90). -/
def txRead (i : Nat) (s : State) : State :=
  memReadThen (s.opBase + i) (fun v => goto (.tx (.frame i v (.first .enter)))) s

/-- Before source byte `i`: on to its read, or the end of the command (R90's for loop). -/
def txNext (i : Nat) (s : State) : State :=
  if i < s.opLength then goto (.tx (.read i)) s else complete s

/-- Where the frame of byte `i` leads: the pacing of R90. -/
def txGap (i : Nat) (s : State) : State :=
  match s.build.paceMode with
  | .deterministic => goto (.tx (.gapDelay i Config.detDelayMs)) s
  | .production => goto (.tx (.gapDraw i)) s

/-- The first step of TX (R90): in PRODUCTION the leading draw, in DETERMINISTIC the first source byte, or the one silent
step of a zero length. -/
def txStart (s : State) : State :=
  match s.build.paceMode with
  | .production =>
    goto (.tx (.leadDelay (s.nextRandom Config.prodInitialLo Config.prodInitialHi)))
      (randomEvent Config.prodInitialLo Config.prodInitialHi s)
  | .deterministic => if 0 < s.opLength then txRead 0 s else complete s

/-- One step of `transmit(bytes, length)` (R90). -/
def txStep : TxPoint → State → State
  | .start, s => txStart s
  | .leadDelay r0, s => delayThen r0 (txNext 0) s
  | .read i, s => txRead i s
  | .frame i d p, s => frameStep d (fun q => .tx (.frame i d q)) (txGap i) p s
  | .gapDraw i, s =>
    goto (.tx (.gapDelay i (s.nextRandom Config.prodGapLo Config.prodGapHi)))
      (randomEvent Config.prodGapLo Config.prodGapHi s)
  | .gapDelay i ms, s => delayThen ms (txNext (i + 1)) s

/-- TX (R90). -/
def execTx (s : State) : Host.Outcome State Fault Refusal :=
  match s.seq with
  | some (.tx p) => .next (txStep p s)
  | _ => .fault .notSequenced

/-- One step of `rawTransmit(bytes, length)` (R91): begin, then end. -/
def rawStep : RawPoint → State → State
  | .stream p, s =>
    beginStep (.mem s.opBase) s.opLength (fun q => .rawTx (.stream q)) (goto (.rawTx (.close .enter))) p s
  | .close p, s => endStep (fun q => .rawTx (.close q)) complete p s

/-- RAWTX (R91). -/
def execRawTx (s : State) : Host.Outcome State Fault Refusal :=
  match s.seq with
  | some (.rawTx p) => .next (rawStep p s)
  | _ => .fault .notSequenced

/-- The last entry of POWER_TABLE. -/
def lastEntry (t : PowerTable) : PowerEntry := (t.rest.getLast?).getD t.first

/-- `power_lookup(dbm)`, its cases in order (R92, by the reading of 90_conflicts.md C2; log 14). -/
def powerLookup (t : PowerTable) (dflt : Byte) (dbm : Int) : Byte :=
  match t.entries.find? (fun e => e.dbm == dbm) with
  | some e => e.cal
  | none =>
    if dbm < t.first.dbm then t.first.cal
    else if (lastEntry t).dbm < dbm then (lastEntry t).cal
    else dflt

/-- The calibration byte of the latched dBm operand (R93). -/
def State.powerByte (s : State) : Byte := powerLookup s.build.powerTable s.build.powerDefault s.opDbm

/-- SETPWR (R93): one silent step, no device event (log 22). -/
def execSetPwr (s : State) : Host.Outcome State Fault Refusal :=
  match s.seq with
  | some .setPwr => .next (complete (setResult (s.powerByte.setWidth 30) (setPower s.powerByte s)))
  | _ => .fault .notSequenced

end Sys2Proof.Machine
end

