-- ==== Sys2Proof/Machine/Dispatch.lean ====
section
/-! DEFINITION. One step of a running command: one arm per constructor of Instr (30_encoding.md R50). -/

namespace Sys2Proof.Machine

/-- The next step of command `i`, at the point SEQ has reached in it (10_state.md R20). -/
def exec (i : Instr) (s : State) : Host.Outcome State Fault Refusal :=
  match i with
  | .encode => Sys2Proof.Machine.execEncode s
  | .frame => Sys2Proof.Machine.execFrame s
  | .txByte => Sys2Proof.Machine.execTxByte s
  | .tx => Sys2Proof.Machine.execTx s
  | .rawTx => Sys2Proof.Machine.execRawTx s
  | .beginTx => Sys2Proof.Machine.execBegin s
  | .cont => Sys2Proof.Machine.execCont s
  | .contZ => Sys2Proof.Machine.execContZ s
  | .endTx => Sys2Proof.Machine.execEnd s
  | .setPwr => Sys2Proof.Machine.execSetPwr s

end Sys2Proof.Machine
end

