-- ==== Sys2Proof/Machine/HostPort.lean ====
section
/-! DEFINITION. The host register block (10_state.md R6, 20_memory.md R30 to R32) and every move from outside LSTX but the sequencer's turn (60_exceptions.md R107, 70_reset_and_hazards.md R113, R116). -/

namespace Sys2Proof.Machine

/-- The ten registers of the block (R6). -/
inductive Reg where
  | cmd
  | status
  | argData
  | argAddr
  | argLen
  | result
  | power
  | sessWritten
  | sessRemaining
  | faultAddr
  deriving DecidableEq, Repr

/-- The register at an offset from REG_BASE (R6); any other offset names none (R31). -/
def regAt (off : Nat) : Option Reg :=
  ([(0x00, .cmd), (0x04, .status), (0x08, .argData), (0x0C, .argAddr), (0x10, .argLen), (0x14, .result), (0x18, .power),
    (0x1C, .sessWritten), (0x20, .sessRemaining), (0x24, .faultAddr)] : List (Nat × Reg)).lookup off

/-- What a host load of a register returns: unused bits read as 0, CMD reads as 0 (R6 to R19, R32). -/
def readReg (s : State) : Reg → Word
  | .cmd => 0#32
  | .status => s.statusWord
  | .argData => s.argData.setWidth 32
  | .argAddr => s.argAddr
  | .argLen => s.argLen
  | .result => s.result.setWidth 32
  | .power => s.power.setWidth 32
  | .sessWritten => s.sessWritten
  | .sessRemaining => s.sessRemaining
  | .faultAddr => s.faultAddr

/-- What a host store to a register does: CMD is a command request (R7), an ARG register keeps its used bits (R14 to R16),
a read-only register ignores it (R32). -/
def writeReg (v : Word) (s : State) : Reg → State
  | .cmd => cmdWrite v s
  | .status => s
  | .argData => { s with argData := v.setWidth 8 }
  | .argAddr => { s with argAddr := s.addrCut v.toNat }
  | .argLen => { s with argLen := s.lenCut v.toNat }
  | .result => s
  | .power => s
  | .sessWritten => s
  | .sessRemaining => s
  | .faultAddr => s

/-- A host store to the register block, refused where it is not admitted (R30, R31). -/
def hostStore (off width : Nat) (v : Word) (s : State) : Host.Outcome State Fault Refusal :=
  if width = 4 then
    match regAt off with
    | some r => .next (writeReg v s r)
    | none => .refused (.registerOffset off)
  else .refused (.registerWidth width)

/-- A host load from the register block, refused where it is not admitted (R30, R31). The word goes to the host's
side of the bus, `busData` (log 16). -/
def hostLoad (off width : Nat) (s : State) : Host.Outcome State Fault Refusal :=
  if width = 4 then
    match regAt off with
    | some r => .next { s with busData := readReg s r }
    | none => .refused (.registerOffset off)
  else .refused (.registerWidth width)

/-- The host writes one byte of its own memory (R107), which has 2^ADDR_WIDTH bytes (R29; log 17). -/
def hostMemWrite (a : Nat) (v : Byte) (s : State) : Host.Outcome State Fault Refusal :=
  if a < 2 ^ s.build.addrWidth then .next { s with mem := Memory.write s.mem a v }
  else .refused (.hostAddress a)

/-- One pass of `WAIT`, "loop RD STATUS until STATUS.BUSY = 0" (30_encoding.md R56): the load, and while BUSY = 1 a turn
of the sequencer before the next pass (log 18). -/
def waitPass (s : State) : State :=
  { s with
    busData := s.statusWord
    inputs := if s.busy then .turn :: .wait :: s.inputs else s.inputs }

/-- The timing service starts or stops to return from delays (R116; log 4). -/
def setTimer (returns : Bool) (s : State) : State := { s with delayReturns := returns }

end Sys2Proof.Machine
end

