-- ==== Sys2Proof/Machine/Sequencer.lean ====
section
/-! DEFINITION. Who moves next and what the move does: the sequencer's turn, one pending input, one step of the machine, and the placing of a command word for the next step. -/

namespace Sys2Proof.Machine

/-- The sequencer's turn: the command SEQ names takes its next step. With SEQ = NONE LSTX "waits for the first CMD write"
(70_reset_and_hazards.md R114) and nothing changes. -/
def runSequencer (s : State) : Host.Outcome State Fault Refusal :=
  match s.seq with
  | some q => exec q.command s
  | none => .next s

/-- One pending input, in a state from whose list it is already taken. -/
def takeInput (s : State) : Input → Host.Outcome State Fault Refusal
  | .turn => runSequencer s
  | .store off width v => hostStore off width v s
  | .load off width => hostLoad off width s
  | .wait => .next (waitPass s)
  | .memWrite a v => hostMemWrite a v s
  | .reset => .next (resetEvent s)
  | .timer returns => .next (setTimer returns s)

/-- One step of the machine: the oldest pending input, and with none pending the sequencer's turn (log 5). -/
def advance (s : State) : Host.Outcome State Fault Refusal :=
  match s.inputs with
  | [] => runSequencer s
  | a :: rest => takeInput { s with inputs := rest } a

/-- The state in which the next step runs the command of table word `w`: accepted as R51 accepts it, with no input
pending before the sequencer's turn (log 6). An illegal word is left as a pending CMD write, which the next step rejects (R52). -/
def placeWord (nbits w : Nat) (s : State) : State :=
  match decodeTableWord nbits w with
  | some i => accept (BitVec.ofNat 32 (w % 2 ^ nbits)) i { s with inputs := [] }
  | none => { s with inputs := [.store 0x00 4 (BitVec.ofNat 32 w)] }

end Sys2Proof.Machine
end

