-- ==== Sys2Proof/Machine/Asm.lean ====
section
/-! DEFINITION. The spec's assembly syntax for a host program (30_encoding.md R56): each line expands to host moves. -/

namespace Sys2Proof.Machine

/-- One line of a host program (R56). -/
inductive AsmLine where
  | encode (d : Nat)
  | frame (d : Nat)
  | txByte (d : Nat)
  | tx (a n : Nat)
  | rawTx (a n : Nat)
  | beginTx (a n : Nat)
  | cont (a n : Nat)
  | contZ (n : Nat)
  | endTx
  | setPwr (dbm : Int)
  deriving DecidableEq, Repr

/-- The operand ranges of R56: "`d` is 0..255, `dbm` is -128..127, `a` is an address and `n` is 0..2^LEN_WIDTH-1". -/
def asmWf (b : Build) : AsmLine → Bool
  | .encode d => decide (d < 256)
  | .frame d => decide (d < 256)
  | .txByte d => decide (d < 256)
  | .tx a n => decide (a < 2 ^ b.addrWidth) && decide (n < 2 ^ b.lenWidth)
  | .rawTx a n => decide (a < 2 ^ b.addrWidth) && decide (n < 2 ^ b.lenWidth)
  | .beginTx a n => decide (a < 2 ^ b.addrWidth) && decide (n < 2 ^ b.lenWidth)
  | .cont a n => decide (a < 2 ^ b.addrWidth) && decide (n < 2 ^ b.lenWidth)
  | .contZ n => decide (n < 2 ^ b.lenWidth)
  | .endTx => true
  | .setPwr dbm => decide (-128 ≤ dbm) && decide (dbm ≤ 127)

/-- The offset of a register of the block from REG_BASE (10_state.md R6). -/
def regOffset : Reg → Nat
  | .cmd => 0x00
  | .status => 0x04
  | .argData => 0x08
  | .argAddr => 0x0C
  | .argLen => 0x10
  | .result => 0x14
  | .power => 0x18
  | .sessWritten => 0x1C
  | .sessRemaining => 0x20
  | .faultAddr => 0x24

/-- `WR r, v`: an aligned 32-bit host store (R56). -/
def wr (r : Reg) (v : Nat) : Input := .store (regOffset r) 4 (BitVec.ofNat 32 v)

/-- `WR CMD, <the word of i>; WAIT`. -/
def issue (i : Instr) : List Input := [.store (regOffset .cmd) 4 (encodeWord i), .wait]

/-- The expansion table of R56. -/
def asmExpand : AsmLine → List Input
  | .encode d => wr .argData d :: issue .encode
  | .frame d => wr .argData d :: issue .frame
  | .txByte d => wr .argData d :: issue .txByte
  | .tx a n => wr .argAddr a :: wr .argLen n :: issue .tx
  | .rawTx a n => wr .argAddr a :: wr .argLen n :: issue .rawTx
  | .beginTx a n => wr .argAddr a :: wr .argLen n :: issue .beginTx
  | .cont a n => wr .argAddr a :: wr .argLen n :: issue .cont
  | .contZ n => wr .argLen n :: issue .contZ
  | .endTx => issue .endTx
  | .setPwr dbm => wr .argData (dbm % 256).toNat :: issue .setPwr

/-- A whole host program, line after line. -/
def asmProgram (ls : List AsmLine) : List Input := (ls.map asmExpand).flatten

end Sys2Proof.Machine
end

