-- ==== Sys2Proof/Safety.lean ====
section
/-! DEFINITION. What claims are stated in: runs, the end of a run and the launch premises (70_reset_and_hazards.md R126, R127), the host duties (60_exceptions.md R107), what a command sends (42_fifo_stream.md R80, 43_pacer.md R88), and the invariants of the machine. -/

namespace Sys2Proof.Machine

/-! ### Runs -/

/-- `n` steps, stopping at the first fault or refusal. -/
def runN : Nat → State → Host.Outcome State Fault Refusal
  | 0, s => .next s
  | n + 1, s =>
    match step s with
    | .next t => runN n t
    | .fault r => .fault r
    | .refused r => .refused r

/-- `Reaches s t`: some number of steps leads from `s` to `t`. -/
def Reaches (s t : State) : Prop := ∃ n, runN n s = .next t

/-! ### Where a procedure stands in a command

A procedure runs inside several commands. Each place is the function that names the procedure's points in SEQ. -/

/-- The places of `begin` (42_fifo_stream.md R83, 43_pacer.md R87, R90, R91). -/
inductive BeginPlace : (BeginPoint → Running) → Prop where
  | beginTx : BeginPlace .beginTx
  | rawTx : BeginPlace (fun p => .rawTx (.stream p))
  | txByte : BeginPlace (fun p => .txByte (.first p))
  | tx (i : Nat) (d : Byte) : BeginPlace (fun p => .tx (.frame i d (.first p)))

/-- The places of `refill` (42_fifo_stream.md R77, R84, R85; 43_pacer.md R87). The flag says whether the refill starts the session
counters anew "with the first event", which the refill inside a begin does not. -/
inductive RefillPlace : Bool → (RefillPoint → Running) → Prop where
  | cont : RefillPlace true .cont
  | contZ : RefillPlace true .contZ
  | txByte (k : Nat) : RefillPlace true (fun p => .txByte (.burst k p))
  | tx (i : Nat) (d : Byte) (k : Nat) : RefillPlace true (fun p => .tx (.frame i d (.burst k p)))
  | ofBegin {at' : BeginPoint → Running} (h : BeginPlace at') : RefillPlace false (fun p => at' (.refill p))

/-- The places of `end` (42_fifo_stream.md R86; 43_pacer.md R87, R90, R91). -/
inductive EndPlace : (EndPoint → Running) → Prop where
  | endTx : EndPlace .endTx
  | rawTx : EndPlace (fun p => .rawTx (.close p))
  | txByte : EndPlace (fun p => .txByte (.last p))
  | tx (i : Nat) (d : Byte) : EndPlace (fun p => .tx (.frame i d (.last p)))

/-! ### End of a run, stuck states (R126) -/

/-- The interval of the Delay a refill stands before, if it does (42_fifo_stream.md R76). -/
def refillDelay (b : Build) : RefillPoint → Option Nat
  | .enter _ _ => some b.refillQuantum
  | .delay _ _ => some b.refillQuantum
  | .poll _ _ => none
  | .chunk _ _ _ _ => none

/-- The interval of the Delay a begin stands before, if it does. -/
def beginDelay (b : Build) : BeginPoint → Option Nat
  | .refill p => refillDelay b p
  | .enter => none
  | .idleWait => none
  | .flush => none
  | .fill _ => none
  | .start => none
  | .oscWait => none

/-- The interval of the Delay a frame stands before, if it does. -/
def frameDelay (b : Build) : FramePoint → Option Nat
  | .first p => beginDelay b p
  | .burst _ p => refillDelay b p
  | .last _ => none

/-- The interval of the Delay a CONT or CONTZ stands before, if it does: its one step is silent where the length is 0
(42_fifo_stream.md R84, R85). -/
def contDelay (b : Build) (p : RefillPoint) : Option Nat := if p = .enter 0 0 then none else refillDelay b p

/-- The interval of the Delay that is the sequencer's next event, if it is one. -/
def pendingDelay (b : Build) : Running → Option Nat
  | .encode => none
  | .frame => none
  | .setPwr => none
  | .endTx _ => none
  | .txByte p => frameDelay b p
  | .tx (.leadDelay r0) => some r0
  | .tx (.gapDelay _ ms) => some ms
  | .tx (.frame _ _ p) => frameDelay b p
  | .tx .start => none
  | .tx (.read _) => none
  | .tx (.gapDraw _) => none
  | .rawTx (.stream p) => beginDelay b p
  | .rawTx (.close _) => none
  | .beginTx p => beginDelay b p
  | .cont p => contDelay b p
  | .contZ p => contDelay b p

/-- A Delay of LSTX is outstanding at the timing port and does not return (R116, R126). No strobe is ever outstanding
between steps, since a strobe and its answer are one event (00_scope.md R5). -/
def delayOutstanding (s : State) : Bool :=
  match s.seq with
  | some q => (pendingDelay s.build q).isSome && !s.delayReturns
  | none => false

/-- The good end of a run (R126). -/
def goodEnd (s : State) : Bool :=
  !s.busy && !s.fault && s.seq.isNone && !delayOutstanding s

/-- The end of a whole transmission: R126 asks "for PHASE = IDLE as well". -/
def transmissionEnd (s : State) : Bool := goodEnd s && s.phase == .idle

/-! ### Whether a Delay returns (70_reset_and_hazards.md R116) -/

/-- Whether the next step is the sequencer's. -/
def sequencerMoves (s : State) : Bool :=
  match s.inputs with
  | [] => true
  | .turn :: _ => true
  | .store _ _ _ :: _ => false
  | .load _ _ :: _ => false
  | .wait :: _ => false
  | .memWrite _ _ :: _ => false
  | .reset :: _ => false
  | .timer _ :: _ => false

/-- Whether the Delay that SEQ stands before returns within the next `n` steps of the run: a turn of the sequencer finds the timing
service returning from delays, SEQ having stood before the Delay until then. A reset that comes first ends the hang, and the
Delay has not returned (60_exceptions.md R101). -/
def returnsWithin : Nat → State → Bool
  | 0, _ => false
  | n + 1, s =>
    if sequencerMoves s && s.delayReturns then true
    else
      match step s with
      | .next t => decide (t.seq = s.seq) && returnsWithin n t
      | .fault _ => false
      | .refused _ => false

/-! ### What a wait awaits (60_exceptions.md R105) -/

/-- The status byte that the `n`-th strobe from now on returns (R105). -/
def statusAt (s : State) (n : Nat) : Byte := (s.devIn[n]?).getD (Config.freeStatus (s.devDraws + (n - s.devIn.length)))

/-- What a poll awaits (42_fifo_stream.md R76, R77, R78). -/
inductive Wait where
  | idle
  | oscStable
  | freeSlot
  | drained
  deriving DecidableEq, Repr

/-- Whether a status byte is the awaited one (30_encoding.md R55). -/
def Wait.met (b : Build) (st : Byte) : Wait → Bool
  | .idle => isIdle st
  | .oscStable => Machine.oscStable b.oscMask st
  | .freeSlot => decide (0 < freeSlots st)
  | .drained => isDrained st

/-- What the poll a refill stands before awaits. -/
def refillAwaits : RefillPoint → Option Wait
  | .poll _ _ => some .freeSlot
  | .enter _ _ => none
  | .delay _ _ => none
  | .chunk _ _ _ _ => none

/-- What the poll a begin stands before awaits. -/
def beginAwaits : BeginPoint → Option Wait
  | .enter => some .idle
  | .idleWait => some .idle
  | .oscWait => some .oscStable
  | .refill p => refillAwaits p
  | .flush => none
  | .fill _ => none
  | .start => none

/-- What the poll an end stands before awaits. -/
def endAwaits : EndPoint → Option Wait
  | .enter => some .drained
  | .drainWait => some .drained
  | .idle => none

/-- What the poll a frame stands before awaits. -/
def frameAwaits : FramePoint → Option Wait
  | .first p => beginAwaits p
  | .burst _ p => refillAwaits p
  | .last p => endAwaits p

/-- What the poll that is the sequencer's next event awaits, if it is one. -/
def awaits : Running → Option Wait
  | .encode => none
  | .frame => none
  | .setPwr => none
  | .txByte p => frameAwaits p
  | .tx (.frame _ _ p) => frameAwaits p
  | .tx .start => none
  | .tx (.leadDelay _) => none
  | .tx (.read _) => none
  | .tx (.gapDraw _) => none
  | .tx (.gapDelay _ _) => none
  | .rawTx (.stream p) => beginAwaits p
  | .rawTx (.close p) => endAwaits p
  | .beginTx p => beginAwaits p
  | .cont p => refillAwaits p
  | .contZ p => refillAwaits p
  | .endTx p => endAwaits p

/-! ### The host's moves, as the duties name them (60_exceptions.md R107) -/

/-- The commands that read host memory (60_exceptions.md R95). -/
def readsSource : Instr → Bool
  | .encode => false
  | .frame => false
  | .txByte => false
  | .tx => true
  | .rawTx => true
  | .beginTx => true
  | .cont => true
  | .contZ => false
  | .endTx => false
  | .setPwr => false

/-- Whether the command now BUSY is one that reads its source buffer from host memory. -/
def sourceInUse (s : State) : Bool :=
  s.busy && (s.seq.map (fun q => readsSource q.command)).getD false

/-- Whether byte `x` of host memory belongs to the source buffer of the command now BUSY (R119). -/
def inUse (s : State) (x : Nat) : Bool :=
  sourceInUse s && decide (s.opBase ≤ x) && decide (x < s.opBase + s.opLength)

/-- The command that the next step accepts, if it is a CMD write that is accepted (30_encoding.md R51). -/
def accepting (s : State) : Option Instr :=
  match s.inputs with
  | .store 0x00 4 w :: _ => if s.fault || s.busy then none else (decodeWord w).toOption
  | _ => none

/-- Whether session framing has a place for a command, `isOpen` saying whether a session is open (R120): no BEGIN, TXBYTE, TX
or RAWTX while one is open, CONT, CONTZ and END only then. ENCODE, FRAME and SETPWR may come anywhere (R107). -/
def framingAllows (isOpen : Bool) : Instr → Bool
  | .encode => true
  | .frame => true
  | .setPwr => true
  | .txByte => !isOpen
  | .tx => !isOpen
  | .rawTx => !isOpen
  | .beginTx => !isOpen
  | .cont => isOpen
  | .contZ => isOpen
  | .endTx => isOpen

/-- Whether the next step keeps the session framing. A session is open while PHASE is not IDLE (R120), so reset closes it. -/
def framedMove (s : State) : Bool :=
  match accepting s with
  | some i => framingAllows (s.phase != .idle) i
  | none => true

/-! ### Launch premises (R127)

The premises about what the host, the device and the timing service do are about the run from the launch state, in which
the pending moves land where they land. -/

/-- `clean_entry`. -/
def cleanEntry (s : State) : Prop :=
  s = State.reset ∨ (s.busy = false ∧ s.fault = false ∧ s.seq = none ∧ s.phase = .idle)

/-- `no_fault_recorded`. -/
def noFaultRecorded (s : State) : Prop := s.fault = false

/-- `nothing_in_flight`, TRACE being the given prefix. -/
def nothingInFlight (given : List Event) (s : State) : Prop := delayOutstanding s = false ∧ s.trace = given

/-- `buffer_readable(a, n)`: every byte's read is admitted (20_memory.md R37). -/
def bufferReadable (a n : Nat) (s : State) : Prop := ∀ j, j < n → admits s.build (a + j) = true

/-- `buffer_stable(a, n)`: no step of the run changes one of the bytes while the command that reads it is BUSY (R119). Between the
commands the host may refill the buffer. -/
def bufferStable (a n : Nat) (s : State) : Prop :=
  ∀ (u t : State) (x : Nat), Reaches s u → step u = .next t → a ≤ x → x < a + n → inUse u x = true →
    Memory.read t.mem x = Memory.read u.mem x

/-- `framed_session`: every command accepted in the run has its place in the session framing (R120). The run may end inside a
session, as R126 says an end may. -/
def framedSession (s : State) : Prop := ∀ u, Reaches s u → framedMove u = true

/-- `device_live`: wherever the run stands before a poll, the awaited status comes some polls on (R105). A refill polls again
and again, so free slots come infinitely often. -/
def deviceLive (s : State) : Prop :=
  ∀ (u : State) (q : Running) (w : Wait), Reaches s u → u.seq = some q → awaits q = some w →
    ∃ m, w.met u.build (statusAt u m) = true

/-- `timer_live`: every Delay of the run returns (R116). A Delay is begun by the sequencer's turn before it. Where the timing service
does not return from it at once, it returns later in the run. -/
def timerLive (s : State) : Prop :=
  ∀ u, Reaches s u → sequencerMoves u = true → delayOutstanding u = true → ∃ n, returnsWithin n u = true

/-- `boot_done`, as far as it concerns LSTX (R115): the timing service runs (step 2), the parameters, the PRN pair among them, are as
the spec asks (step 3), and the buffer of every command of the run that reads host memory is readable (step 4). The radio
setup of step 1 and the seeding of step 2 are the driver's and the random service's, and have no state here (log 3, log 20). -/
def bootDone (s : State) : Prop :=
  s.delayReturns = true ∧ timerLive s ∧ s.build.wf = true ∧
  ∀ u, Reaches s u → sourceInUse u = true → bufferReadable u.opBase u.opLength u

/-! ### What a command sends -/

/-- The bytes an event appends to the device FIFO (R40). -/
def eventBytes : Event → List Byte
  | .writeBuf bs => bs
  | .writeZeros n => List.replicate n 0#8
  | .strobe _ _ => []
  | .delay _ => []
  | .random _ _ _ => []
  | .memRead _ _ => []

/-- The bytes the events of a trace have appended to the device FIFO, in order. -/
def sentBytes (es : List Event) : List Byte := (es.map eventBytes).flatten

/-- The source buffer of the running command: bytes 0 to `length - 1` (30_encoding.md R49). -/
def sourceBytes (s : State) : List Byte := (List.range s.opLength).map (fun j => Memory.read s.mem (s.opBase + j))

/-- The bytes that a command which runs to its end sends (R80, R88, R90, R91). -/
def payload (s : State) : Instr → List Byte
  | .encode => []
  | .frame => []
  | .setPwr => []
  | .endTx => []
  | .txByte => chipStream s.build s.opData
  | .tx => ((sourceBytes s).map (chipStream s.build)).flatten
  | .rawTx => sourceBytes s
  | .beginTx => sourceBytes s
  | .cont => sourceBytes s
  | .contZ => List.replicate s.opLength 0#8

/-- In `s`, wherever SEQ stands at the end of a refill chunk of `n` bytes, the step appends the event `e`, which sends exactly `n` bytes,
advances the counters by `n`, and leads to the next pass or, where nothing remains, to `next`, NONE completing the command; nothing
else changes (42_fifo_stream.md R75, R76). -/
def WritesChunk (s : State) (at' : RefillPoint → Running) (off rem n : Nat) (buf : List Byte) (e : Event)
    (next : Option Running) : Prop :=
  s.seq = some (at' (.chunk off rem n buf)) → n ≤ rem →
    (eventBytes e).length = n ∧
    ∃ w r : Word,
      exec (at' (.chunk off rem n buf)).command s = .next { s with
        trace := s.trace ++ [e], sessWritten := w, sessRemaining := r,
        busy := s.busy && (decide (n < rem) || next.isSome),
        seq := if n < rem then some (at' (.delay (off + n) (rem - n))) else next } ∧
      w.toNat = (s.sessWritten.toNat + n) % 2 ^ s.build.lenWidth % 2 ^ 32 ∧
      (n ≤ s.sessRemaining.toNat → s.sessRemaining.toNat < 2 ^ s.build.lenWidth → r.toNat = s.sessRemaining.toNat - n)

/-! ### Invariants -/

/-- The status byte of the last strobe of a trace, 0 if it has none (10_state.md R12). -/
def lastStatus (es : List Event) : Byte :=
  es.foldl (fun acc e => match e with | .strobe _ st => st | _ => acc) 0#8

/-- The invariant of the whole machine: host memory is canonical, BUSY = 1 exactly while SEQ names a command (R8, R20),
that command is the latched one (R51), a fault is recorded exactly as R97 and R98 say and no command runs then, the
registers of ADDR_WIDTH and LEN_WIDTH bits hold no reserved bit (R15, R16, R19), and LAST_DEV is the last status of TRACE (R12). -/
structure Inv (s : State) : Prop where
  memCanonical   : Memory.wf s.mem = true
  busyIffRunning : s.busy = s.seq.isSome
  latchesName    : ∀ q, s.seq = some q → selectCommand s.lOp s.lZf = some q.command
  faultRecorded  : s.fault = true ↔ s.err = .memFault
  faultStops     : s.fault = true → s.seq = none
  argAddrFits    : s.argAddr.toNat < 2 ^ s.build.addrWidth
  argLenFits     : s.argLen.toNat < 2 ^ s.build.lenWidth
  lAddrFits      : s.lAddr.toNat < 2 ^ s.build.addrWidth
  lLenFits       : s.lLen.toNat < 2 ^ s.build.lenWidth
  faultAddrFits  : s.faultAddr.toNat < 2 ^ s.build.addrWidth
  writtenFits    : s.sessWritten.toNat < 2 ^ s.build.lenWidth
  remainingFits  : s.sessRemaining.toNat < 2 ^ s.build.lenWidth
  lastDevSeen    : s.lastDev = lastStatus s.trace

/-- The counters of a refill over `off + rem = len` bytes at a point after its first event: `off` written, `rem`
remaining (10_state.md R19), the chunk within the 15 bytes a status can report (42_fifo_stream.md R76). -/
def refillOk (w r len : Nat) (restart : Bool) : RefillPoint → Prop
  | .enter off rem => off + rem = len ∧ 0 < rem ∧ (restart = false → w = off ∧ r = rem) ∧ (restart = true → off = 0)
  | .delay off rem => off + rem = len ∧ 0 < rem ∧ w = off ∧ r = rem
  | .poll off rem => off + rem = len ∧ 0 < rem ∧ w = off ∧ r = rem
  | .chunk off rem n buf => off + rem = len ∧ 0 < rem ∧ w = off ∧ r = rem ∧ n ≤ rem ∧ n ≤ 15 ∧ buf.length ≤ n

/-- The counters at a point of begin (42_fifo_stream.md R77). -/
def beginOk (w r len : Nat) : BeginPoint → Prop
  | .enter => True
  | .idleWait => w = 0 ∧ r = len
  | .flush => w = 0 ∧ r = len
  | .fill buf => w = 0 ∧ r = len ∧ buf.length ≤ min len Config.fifoCapacity
  | .start => w = min len Config.fifoCapacity ∧ r = len - min len Config.fifoCapacity
  | .oscWait => Config.fifoCapacity < len ∧ w = Config.fifoCapacity ∧ r = len - Config.fifoCapacity
  | .refill p => Config.fifoCapacity < len ∧ Config.fifoCapacity ≤ (match p with
      | .enter off _ => off | .delay off _ => off | .poll off _ => off | .chunk off _ _ _ => off) ∧ refillOk w r len false p

/-- The counters and indices at a point of a frame (43_pacer.md R87). -/
def frameOk (w r : Nat) : FramePoint → Prop
  | .first p => beginOk w r burstLen p
  | .burst k p => 1 ≤ k ∧ k < Config.frameBits ∧ refillOk w r burstLen true p
  | .last _ => w = burstLen ∧ r = 0

/-- The counters at a point of CONT or CONTZ, whose length may be 0 (42_fifo_stream.md R84, R85). -/
def contOk (w r len : Nat) (p : RefillPoint) : Prop :=
  p = .enter 0 len ∨ refillOk w r len true p

/-- The counters and indices of a running command of length `len`. -/
def runningOk (w r len : Nat) : Running → Prop
  | .encode => True
  | .frame => True
  | .setPwr => True
  | .endTx _ => True
  | .txByte p => frameOk w r p
  | .tx .start => True
  | .tx (.leadDelay _) => True
  | .tx (.read i) => i < len
  | .tx (.frame i _ p) => i < len ∧ frameOk w r p
  | .tx (.gapDraw i) => i < len
  | .tx (.gapDelay i _) => i < len
  | .rawTx (.stream p) => beginOk w r len p
  | .rawTx (.close _) => w = len ∧ r = 0
  | .beginTx p => beginOk w r len p
  | .cont p => contOk w r len p
  | .contZ p => contOk w r len p

/-- "At every step of one stream procedure SESS_WRITTEN + SESS_REMAINING = the procedure's length" (10_state.md R19), with the
point of SEQ that the counters stand for. -/
def SessionInv (s : State) : Prop :=
  ∀ q, s.seq = some q → runningOk s.sessWritten.toNat s.sessRemaining.toNat s.opLength q

/-- PHASE at a point of a refill that is entered in phase `entry` (10_state.md R10). -/
def refillPhase (entry ph : Phase) : RefillPoint → Prop
  | .enter _ _ => ph = entry
  | .delay _ _ => ph = .streaming
  | .poll _ _ => ph = .streaming
  | .chunk _ _ _ _ => ph = .streaming

/-- PHASE at a point of begin (10_state.md R10). -/
def beginPhase (ph : Phase) : BeginPoint → Prop
  | .enter => True
  | .idleWait => ph = .flushing
  | .flush => ph = .flushing
  | .fill buf => ph = if buf.isEmpty then .flushing else .initialFill
  | .start => ph = .initialFill
  | .oscWait => ph = .initialFill
  | .refill p => refillPhase .initialFill ph p

/-- PHASE at a point of end (10_state.md R10). -/
def endPhase (ph : Phase) : EndPoint → Prop
  | .enter => True
  | .drainWait => ph = .draining
  | .idle => ph = .draining

/-- Whether a begin is before its oscillator wait: the begin of a frame, of 64 bytes, has no point past it (43_pacer.md R87). -/
def beforeOscWait : BeginPoint → Bool
  | .enter => true
  | .idleWait => true
  | .flush => true
  | .fill _ => true
  | .start => true
  | .oscWait => false
  | .refill _ => false

/-- PHASE at a point of a frame (43_pacer.md R87). -/
def framePhase (ph : Phase) : FramePoint → Prop
  | .first p => beforeOscWait p = true ∧ beginPhase ph p
  | .burst k p => 1 ≤ k ∧ refillPhase (if k = 1 then .initialFill else .streaming) ph p
  | .last p => endPhase ph p

/-- PHASE at a point of a CONT or CONTZ, which may enter in any phase (42_fifo_stream.md R82). -/
def contPhase (ph : Phase) : RefillPoint → Prop
  | .enter _ _ => True
  | .delay _ _ => ph = .streaming
  | .poll _ _ => ph = .streaming
  | .chunk _ _ _ _ => ph = .streaming

/-- PHASE while a command runs. -/
def runningPhase (ph : Phase) : Running → Prop
  | .encode => True
  | .frame => True
  | .setPwr => True
  | .endTx p => endPhase ph p
  | .txByte p => framePhase ph p
  | .tx (.frame _ _ p) => framePhase ph p
  | .tx .start => True
  | .tx (.leadDelay _) => True
  | .tx (.read _) => True
  | .tx (.gapDraw _) => True
  | .tx (.gapDelay _ _) => True
  | .rawTx (.stream p) => beginPhase ph p
  | .rawTx (.close p) => endPhase ph p
  | .beginTx p => beginPhase ph p
  | .cont p => contPhase ph p
  | .contZ p => contPhase ph p

/-- PHASE holds the session state of the point that SEQ has reached (10_state.md R10). -/
def PhaseInv (s : State) : Prop := ∀ q, s.seq = some q → runningPhase s.phase q

/-! ### The host memory read that SEQ stands before -/

/-- The address a chunk of `n` bytes at source index `off` reads next, if it has a byte left to read (42_fifo_stream.md R75). -/
def chunkRead (base off n : Nat) (buf : List Byte) : Option Nat :=
  if buf.length < n then some (base + off + buf.length) else none

/-- The address a refill from host memory reads next. -/
def refillRead (base : Nat) : RefillPoint → Option Nat
  | .enter _ _ => none
  | .delay _ _ => none
  | .poll _ _ => none
  | .chunk off _ n buf => chunkRead base off n buf

/-- The address a begin from host memory reads next. -/
def beginRead (base len : Nat) : BeginPoint → Option Nat
  | .enter => none
  | .idleWait => none
  | .flush => none
  | .fill buf => chunkRead base 0 (min len 64) buf
  | .start => none
  | .oscWait => none
  | .refill p => refillRead base p

/-- The address of the MemRead the next step of the running command makes, if it makes one: only TX, RAWTX, BEGIN and
CONT read host memory (60_exceptions.md R95). -/
def sourceRead (s : State) : Running → Option Nat
  | .encode => none
  | .frame => none
  | .setPwr => none
  | .endTx _ => none
  | .txByte _ => none
  | .contZ _ => none
  | .tx .start => if s.build.paceMode = .deterministic ∧ 0 < s.opLength then some s.opBase else none
  | .tx (.read i) => some (s.opBase + i)
  | .tx (.leadDelay _) => none
  | .tx (.frame _ _ _) => none
  | .tx (.gapDraw _) => none
  | .tx (.gapDelay _ _) => none
  | .rawTx (.stream p) => beginRead s.opBase s.opLength p
  | .rawTx (.close _) => none
  | .beginTx p => beginRead s.opBase s.opLength p
  | .cont p => refillRead s.opBase p

/-! ### Counting events -/

/-- How many strobes of command code `c` a trace holds. -/
def strobeCount (c : Byte) (es : List Event) : Nat :=
  es.countP (fun e => match e with | .strobe c' _ => c' == c | _ => false)

/-- How many WriteBuf events a trace holds. -/
def writeBufCount (es : List Event) : Nat :=
  es.countP (fun e => match e with | .writeBuf _ => true | _ => false)

/-- How many MemRead and WriteZeros events a trace holds. -/
def readOrZeroCount (es : List Event) : Nat :=
  es.countP (fun e => match e with | .memRead _ _ => true | .writeZeros _ => true | _ => false)

/-- An event as the ports allow it in a build, host memory being `m` (20_memory.md R37, R40; 60_exceptions.md R104, R106). -/
def eventOk (b : Build) (m : List Host.Cell) : Event → Prop
  | .strobe c _ => c ∈ [b.strobeIdle, b.strobeFlush, b.strobeStart, b.strobeNop]
  | .writeBuf bs => bs.length ≤ 64
  | .writeZeros n => n ≤ 64
  | .delay _ => True
  | .random lo hi r => lo ≤ r ∧ r < hi
  | .memRead a v => admits b a = true ∧ v = Memory.read m a

end Sys2Proof.Machine
end

