-- ==== Sys2Proof/Certificates/Slice0/Obligations.lean ====
section
/-! DEFINITION. The statements for the provers, from the numbered rules of spec/. -/

open Sys2Proof Sys2Proof.Machine

/-! ### Command words (30_encoding.md) -/

/-- R50: every command has one 32-bit word, the one of the map, and no other word is that command. -/
def Obligations.EachCommandHasExactlyOneWord : Prop :=
  (∀ i : Instr, i.wf = true → decodeWord (encodeWord i) = .ok i) ∧
  (∀ (w : Word) (i : Instr), decodeWord w = .ok i → w = encodeWord i) ∧
  [Instr.encode, .frame, .txByte, .tx, .rawTx, .beginTx, .cont, .contZ, .endTx, .setPwr].map encodeWord =
    [0x01#32, 0x02#32, 0x03#32, 0x04#32, 0x05#32, 0x06#32, 0x07#32, 0x17#32, 0x08#32, 0x09#32]

/-- R51's `legal(w)` holds of exactly the words that decode, and every word R52 does not list as illegal decodes. -/
def Obligations.LegalWordsAreTheDecodedWords : Prop :=
  (∀ w : Word, legalWord w = true ↔ ∃ i, decodeWord w = .ok i) ∧
  (∀ w : Word, (∃ r, decodeWord w = .error r) ↔
    (w.extractLsb' 0 4 = 0#4 ∨ 10 ≤ (w.extractLsb' 0 4).toNat) ∨ w.extractLsb' 5 27 ≠ 0#27 ∨
      (w.getLsbD 4 = true ∧ w.extractLsb' 0 4 ≠ 7#4))

/-- Words written out from R48 and R50, one for each family and one for each kind of illegal word of R52. -/
def Obligations.SampleCommandWordsDecode : Prop :=
  decodeTableWord 32 0b00000000000000000000000000000001 = some .encode ∧
  decodeTableWord 32 0b00000000000000000000000000000010 = some .frame ∧
  decodeTableWord 32 0b00000000000000000000000000000111 = some .cont ∧
  decodeTableWord 32 0b00000000000000000000000000010111 = some .contZ ∧
  decodeTableWord 32 0b00000000000000000000000000001001 = some .setPwr ∧
  decodeWord 0x00000018#32 = .error .zeroFillWithoutCont ∧
  decodeWord 0x0000000A#32 = .error .reservedOpcode ∧
  decodeWord 0x80000004#32 = .error .reservedBits

/-! ### Acceptance (30_encoding.md R51, R52; 60_exceptions.md R96, R98) -/

/-- R51: the four cases of a CMD write, in their order. -/
def Obligations.CmdWriteFollowsAcceptanceOrder : Prop :=
  ∀ (s : State) (w : Word),
    (s.fault = true → hostStore 0x00 4 w s = .next s) ∧
    (s.fault = false → s.busy = true → hostStore 0x00 4 w s = .next { s with err := .cmdWhileBusy }) ∧
    (s.fault = false → s.busy = false →
      ¬ (w.extractLsb' 5 27 = 0#27 ∧
        ((w.getLsbD 4 = false ∧ 1 ≤ (w.extractLsb' 0 4).toNat ∧ (w.extractLsb' 0 4).toNat ≤ 9) ∨
          (w.getLsbD 4 = true ∧ w.extractLsb' 0 4 = 7#4))) →
      hostStore 0x00 4 w s = .next { s with err := .illegalCmd }) ∧
    (s.fault = false → s.busy = false →
      (w.extractLsb' 5 27 = 0#27 ∧
        ((w.getLsbD 4 = false ∧ 1 ≤ (w.extractLsb' 0 4).toNat ∧ (w.extractLsb' 0 4).toNat ≤ 9) ∨
          (w.getLsbD 4 = true ∧ w.extractLsb' 0 4 = 7#4))) →
      ∃ i, selectCommand (w.extractLsb' 0 4) (w.getLsbD 4) = some i ∧
        hostStore 0x00 4 w s = .next { s with
          err := .none, lOp := w.extractLsb' 0 4, lZf := w.getLsbD 4, lData := s.argData, lAddr := s.argAddr,
          lLen := s.argLen, busy := true, seq := some (firstPoint s.argLen.toNat i) })

/-- R52: an illegal word that arrives while BUSY = 0 and FAULT = 0 sets ERR to 1 and changes nothing else. -/
def Obligations.IllegalWordSetsErrOnly : Prop :=
  ∀ (s : State) (w : Word), s.fault = false → s.busy = false →
    ((w.extractLsb' 0 4 = 0#4 ∨ 10 ≤ (w.extractLsb' 0 4).toNat) ∨ w.extractLsb' 5 27 ≠ 0#27 ∨
      (w.getLsbD 4 = true ∧ w.extractLsb' 0 4 ≠ 7#4)) →
    hostStore 0x00 4 w s = .next { s with err := .illegalCmd } ∧ ∀ i, decodeWord w ≠ .ok i

/-- R96: a CMD write while BUSY = 1 sets ERR to 2 and is discarded; the running command then goes on as if it had not
happened, and its own completion leaves ERR. -/
def Obligations.BusyWriteIsDiscarded : Prop :=
  (∀ (s : State) (w : Word), s.fault = false → s.busy = true →
    hostStore 0x00 4 w s = .next { s with err := .cmdWhileBusy }) ∧
  (∀ (i : Instr) (s t : State), exec i s = .next t → t.fault = false →
    exec i { s with err := .cmdWhileBusy } = .next { t with err := .cmdWhileBusy })

/-- R98: while FAULT = 1 every CMD write is ignored, ARG writes still take effect, only reset clears FAULT, and the state
is no good end. -/
def Obligations.FaultedMachineIgnoresCommands : Prop :=
  ∀ s : State, s.fault = true →
    (∀ w, hostStore 0x00 4 w s = .next s) ∧
    (∀ v : Word, hostStore 0x08 4 v s = .next { s with argData := v.setWidth 8 }) ∧
    (∀ v : Word, hostStore 0x0C 4 v s = .next { s with argAddr := BitVec.ofNat 32 (v.toNat % 2 ^ s.build.addrWidth) }) ∧
    (∀ v : Word, hostStore 0x10 4 v s = .next { s with argLen := BitVec.ofNat 32 (v.toNat % 2 ^ s.build.lenWidth) }) ∧
    (∀ t, step s = .next t → t.fault = false → ∃ rest, s.inputs = .reset :: rest) ∧
    goodEnd s = false

/-- R9: FAULT is set by a memory fault and by nothing else, cleared only by reset, not written by the host, and no command
is accepted while it is 1. -/
def Obligations.FaultSetOnlyByMemFaultClearedOnlyByReset : Prop :=
  (∀ s t : State, step s = .next t → s.fault = false → t.fault = true →
    ∃ a, admits s.build a = false ∧ t = raiseMemFault a { s with inputs := s.inputs.tail }) ∧
  (∀ s t : State, step s = .next t → s.fault = true → t.fault = false → ∃ rest, s.inputs = .reset :: rest) ∧
  (∀ (s : State) (v : Word), hostStore 0x04 4 v s = .next s) ∧
  (∀ (s : State) (w : Word), s.fault = true → hostStore 0x00 4 w s = .next s)

/-! ### Step -/

/-- A step runs the decoded command: the placed word's, and the one SEQ names, on the sequencer's turn; a CMD write of a
legal word makes SEQ name its command. Who moves next is the model's choice (log 5), and so is the placed word (log 6). -/
def Obligations.StepRunsTheDecodedCommand : Prop :=
  (∀ (s : State) (nbits w : Nat) (i : Instr), decodeTableWord nbits w = some i →
    step (s.withFetchWord nbits w) = exec i (s.withFetchWord nbits w)) ∧
  (∀ (s : State) (q : Running), s.seq = some q → s.inputs = [] → step s = exec q.command s) ∧
  (∀ (s : State) (q : Running) (rest : List Input), s.seq = some q → s.inputs = .turn :: rest →
    step s = exec q.command { s with inputs := rest }) ∧
  (∀ (s : State) (w : Word) (i : Instr) (rest : List Input), s.inputs = .store 0x00 4 w :: rest → s.fault = false →
    s.busy = false → decodeWord w = .ok i →
    ∃ t, step s = .next t ∧ t.inputs = rest ∧ t.seq.map Running.command = some i)

/-- A step never faults, and exec faults exactly where SEQ is not in the command (the model's choice, log 12). -/
def Obligations.StepNeverFaults : Prop :=
  (∀ (s : State) (r : Fault), step s ≠ .fault r) ∧
  (∀ (i : Instr) (s : State), exec i s = .fault .notSequenced ↔ ¬ ∃ q, s.seq = some q ∧ q.command = i)

/-- R114: after reset LSTX is ready and waits for the first CMD write. -/
def Obligations.ResetLeavesLstxReadyAndWaiting : Prop :=
  State.reset.busy = false ∧ State.reset.fault = false ∧ State.reset.phase = .idle ∧ State.reset.seq = none ∧
  (∀ s : State, s.seq = none → s.inputs = [] → step s = .next s)

/-- R113, R28: reset takes one step at any time, puts the values of R28, empties TRACE, sends nothing, and leaves the
build-time values. -/
def Obligations.ResetEventRestoresResetValues : Prop :=
  ∀ (s : State) (rest : List Input), s.inputs = .reset :: rest →
    ∃ t, step s = .next t ∧ t.busy = false ∧ t.fault = false ∧ t.phase = .idle ∧ t.err = .none ∧ t.lastDev = 0#8 ∧
      t.argData = 0#8 ∧ t.argAddr = 0#32 ∧ t.argLen = 0#32 ∧ t.result = 0#30 ∧ t.power = s.build.powerReset ∧
      t.sessWritten = 0#32 ∧ t.sessRemaining = 0#32 ∧ t.faultAddr = 0#32 ∧ t.seq = none ∧ t.trace = [] ∧
      t.build = s.build ∧ t.statusWord = 0#32 ∧ t.inputs = rest

/-! ### The host register block (10_state.md, 20_memory.md) -/

/-- R8 to R13: the fields of the STATUS word a host load returns, the codes of PHASE and ERR, and the reserved bits. -/
def Obligations.StatusWordLayout : Prop :=
  ∀ s : State, ∃ t, hostLoad 0x04 4 s = .next t ∧ t = { s with busData := t.busData } ∧
    t.busData.getLsbD 0 = s.busy ∧ t.busData.getLsbD 1 = s.fault ∧
    ((s.phase = .idle → t.busData.extractLsb' 2 3 = 0#3) ∧ (s.phase = .flushing → t.busData.extractLsb' 2 3 = 1#3) ∧
      (s.phase = .initialFill → t.busData.extractLsb' 2 3 = 2#3) ∧ (s.phase = .streaming → t.busData.extractLsb' 2 3 = 3#3) ∧
      (s.phase = .draining → t.busData.extractLsb' 2 3 = 4#3)) ∧
    ((s.err = .none → t.busData.extractLsb' 8 3 = 0#3) ∧ (s.err = .illegalCmd → t.busData.extractLsb' 8 3 = 1#3) ∧
      (s.err = .cmdWhileBusy → t.busData.extractLsb' 8 3 = 2#3) ∧ (s.err = .memFault → t.busData.extractLsb' 8 3 = 3#3)) ∧
    t.busData.extractLsb' 16 8 = s.lastDev ∧
    (∀ k, k ∈ [5, 6, 7, 11, 12, 13, 14, 15, 24, 25, 26, 27, 28, 29, 30, 31] → t.busData.getLsbD k = false)

/-- R14 to R16: a host store to an ARG register keeps its used bits, drops the reserved ones, and changes nothing else;
a load returns what is kept. -/
def Obligations.ArgRegistersKeepUsedBits : Prop :=
  ∀ (s : State) (v : Word),
    (∃ x : Byte, hostStore 0x08 4 v s = .next { s with argData := x } ∧
      ∃ t, hostLoad 0x08 4 { s with argData := x } = .next t ∧ t.busData = v &&& 0xFF#32) ∧
    (∃ x : Word, hostStore 0x0C 4 v s = .next { s with argAddr := x } ∧
      ∃ t, hostLoad 0x0C 4 { s with argAddr := x } = .next t ∧ t.busData.toNat = v.toNat % 2 ^ s.build.addrWidth) ∧
    (∃ x : Word, hostStore 0x10 4 v s = .next { s with argLen := x } ∧
      ∃ t, hostLoad 0x10 4 { s with argLen := x } = .next t ∧ t.busData.toNat = v.toNat % 2 ^ s.build.lenWidth)

/-- R32: a host write to a read-only register is ignored, and a host read of CMD returns 0. -/
def Obligations.ReadOnlyRegistersIgnoreStores : Prop :=
  ∀ s : State,
    (∀ (off : Nat) (v : Word), off ∈ [0x04, 0x14, 0x18, 0x1C, 0x20, 0x24] → hostStore off 4 v s = .next s) ∧
    hostLoad 0x00 4 s = .next { s with busData := 0#32 }

/-- R30, R31: an access of another width, or at an offset that names no register, is refused; every other access is not. -/
def Obligations.UnadmittedRegisterAccessesAreRefused : Prop :=
  ∀ (s : State) (off width : Nat) (v : Word),
    ((width ≠ 4 ∨ 0x24 < off ∨ off % 4 ≠ 0) →
      (∃ r, hostStore off width v s = .refused r) ∧ (∃ r, hostLoad off width s = .refused r)) ∧
    ((width = 4 ∧ off ≤ 0x24 ∧ off % 4 = 0) →
      (∃ t, hostStore off width v s = .next t) ∧ (∃ x, hostLoad off width s = .next { s with busData := x }))

/-- R6, R7, R14 to R19: a host load of each register, at its offset, returns what the register holds, the bits beyond a
byte or RESULT's 30 being 0, and changes nothing else. That the registers of ADDR_WIDTH and LEN_WIDTH bits hold no more is part of
Inv, and STATUS has a statement of its own. -/
def Obligations.HostLoadsReturnTheirRegister : Prop :=
  ∀ s : State,
    hostLoad 0x00 4 s = .next { s with busData := 0#32 } ∧
    (∃ x : Word, hostLoad 0x08 4 s = .next { s with busData := x } ∧ x.toNat = s.argData.toNat) ∧
    hostLoad 0x0C 4 s = .next { s with busData := s.argAddr } ∧
    hostLoad 0x10 4 s = .next { s with busData := s.argLen } ∧
    (∃ x : Word, hostLoad 0x14 4 s = .next { s with busData := x } ∧ x.extractLsb' 0 30 = s.result ∧
      x.extractLsb' 30 2 = 0#2) ∧
    (∃ x : Word, hostLoad 0x18 4 s = .next { s with busData := x } ∧ x.extractLsb' 0 8 = s.power ∧
      x.extractLsb' 8 24 = 0#24) ∧
    hostLoad 0x1C 4 s = .next { s with busData := s.sessWritten } ∧
    hostLoad 0x20 4 s = .next { s with busData := s.sessRemaining } ∧
    hostLoad 0x24 4 s = .next { s with busData := s.faultAddr }

/-- Host memory: a byte reads as it was last written, and a host write leaves every other byte and all of LSTX alone (20_memory.md
R29, R37). That a write at or above 2^ADDR_WIDTH is refused is the model's choice (log 17). -/
def Obligations.HostMemoryWriteThenRead : Prop :=
  ∀ (s : State) (a : Nat) (v : Byte), Memory.wf s.mem = true →
    (a < 2 ^ s.build.addrWidth → ∃ m, hostMemWrite a v s = .next { s with mem := m } ∧ Memory.wf m = true ∧
      Memory.read m a = v ∧ ∀ b, b ≠ a → Memory.read m b = Memory.read s.mem b) ∧
    (2 ^ s.build.addrWidth ≤ a → hostMemWrite a v s = .refused (.hostAddress a))

/-- R44, R56: a pass of WAIT loads STATUS; it is the last pass exactly when BUSY = 0, and else gives LSTX its turn first
(that one turn is the model's choice, log 18). -/
def Obligations.WaitPollsUntilNotBusy : Prop :=
  ∀ (s : State) (rest : List Input), s.inputs = .wait :: rest →
    ∃ t, step s = .next t ∧ t = { s with busData := s.statusWord, inputs := t.inputs } ∧
      (s.busy = false → t.inputs = rest) ∧
      (s.busy = true → t.inputs = .turn :: .wait :: rest ∧
        ∀ q, s.seq = some q → step t = exec q.command { t with inputs := .wait :: rest })

/-- R56, R49: the expansion of every assembler line delivers its operands: after its stores its command runs on them, and the WAIT
is still to come. -/
def Obligations.AsmLinesDeliverTheirOperands : Prop :=
  ∀ (s : State) (rest : List Input), s.busy = false → s.fault = false →
    (∀ (d : Nat) (l : AsmLine) (i : Instr),
      (l, i) ∈ [(.encode d, .encode), (.frame d, .frame), (.txByte d, .txByte)] → d < 256 → s.inputs = asmExpand l ++ rest →
      ∃ t, runN 2 s = .next t ∧ t.seq.map Running.command = some i ∧ t.opData.toNat = d ∧ t.inputs = .wait :: rest) ∧
    (∀ (dbm : Int), -128 ≤ dbm → dbm ≤ 127 → s.inputs = asmExpand (.setPwr dbm) ++ rest →
      ∃ t, runN 2 s = .next t ∧ t.seq.map Running.command = some .setPwr ∧ t.opDbm = dbm ∧ t.inputs = .wait :: rest) ∧
    (∀ (a n : Nat) (l : AsmLine) (i : Instr),
      (l, i) ∈ [(.tx a n, .tx), (.rawTx a n, .rawTx), (.beginTx a n, .beginTx), (.cont a n, .cont)] →
      s.build.widthsOk = true → a < 2 ^ s.build.addrWidth → n < 2 ^ s.build.lenWidth → s.inputs = asmExpand l ++ rest →
      ∃ t, runN 3 s = .next t ∧ t.seq = some (firstPoint n i) ∧ t.opBase = a ∧ t.opLength = n ∧ t.inputs = .wait :: rest) ∧
    (∀ n : Nat, s.build.widthsOk = true → n < 2 ^ s.build.lenWidth → s.inputs = asmExpand (.contZ n) ++ rest →
      ∃ t, runN 2 s = .next t ∧ t.seq = some (firstPoint n .contZ) ∧ t.opLength = n ∧ t.inputs = .wait :: rest) ∧
    (s.inputs = asmExpand .endTx ++ rest →
      ∃ t, runN 1 s = .next t ∧ t.seq.map Running.command = some .endTx ∧ t.inputs = .wait :: rest)

/-! ### FEC encoder (40_fec.md) -/

/-- R63, R59: ENCODE completes in one silent step that writes RESULT with the parity byte and nothing else; bit j of it is the
parity of the data byte under mask M_j. -/
def Obligations.EncodeWritesParityByte : Prop :=
  ∀ s : State, s.seq = some .encode →
    ∃ p : Byte, exec .encode s = .next { s with result := p.setWidth 30, busy := false, seq := none } ∧
      ∀ j, j < 8 → p.getLsbD j = parity (s.lData &&&
        [0x39#8, 0xDD#8, 0xF1#8, 0xE2#8, 0x8F#8, 0x1E#8, 0x77#8, 0xA5#8].getD j 0#8)

/-- R60: fec is linear over GF(2), and its columns. -/
def Obligations.FecIsLinear : Prop :=
  (∀ a b : Byte, fec (a ^^^ b) = fec a ^^^ fec b) ∧ fec 0x00#8 = 0x00#8 ∧
  [0x01#8, 0x02#8, 0x04#8, 0x08#8, 0x10#8, 0x20#8, 0x40#8, 0x80#8].map fec =
    [0xD7#8, 0x78#8, 0xF2#8, 0x33#8, 0x67#8, 0xCD#8, 0x4E#8, 0x9E#8]

/-- R61: two different data bytes have codewords at Hamming distance 5 or more, and 24 data bytes have weight exactly 5. -/
def Obligations.FecMinimumDistanceIsFive : Prop :=
  (∀ a b : Byte, a ≠ b → 5 ≤ weight (a ^^^ b) + weight (fec a ^^^ fec b)) ∧
  ((List.range 256).filter (fun n => weight (BitVec.ofNat 8 n) + weight (fec (BitVec.ofNat 8 n)) == 5)).length = 24 ∧
  ∀ d : Byte, d ∈ [0x02#8, 0x08#8, 0x40#8, 0x79#8] → weight d + weight (fec d) = 5

/-- R62: two data bytes have the same parity exactly when they are equal or differ by 0x79, the parity byte takes 128 values, and
the frame still identifies the data byte. -/
def Obligations.FecKernelIsHex79 : Prop :=
  (∀ a b : Byte, fec a = fec b ↔ a = b ∨ b = a ^^^ 0x79#8) ∧ fec 0x79#8 = 0x00#8 ∧
  (∀ a b : Byte, frameWord a = frameWord b → a = b) ∧
  ((List.range 256).map (fun n => fec (BitVec.ofNat 8 n))).dedup.length = 128

/-! ### Chip modulator (41_modulator.md) -/

/-- R72, R66: FRAME completes in one silent step that writes RESULT with the frame word and nothing else. -/
def Obligations.FrameWritesFrameWord : Prop :=
  ∀ s : State, s.seq = some .frame →
    exec .frame s = .next { s with
      result := (0x72#30 <<< 23) ||| ((fec s.lData).setWidth 30 <<< 15) ||| (s.lData.setWidth 30 <<< 7) ||| 0x58#30,
      busy := false, seq := none }

/-- R64, R65, R66: the frame has 30 bits, placed as R65 says, and bit k is bit 29 - k of the frame word. -/
def Obligations.FrameBitsByPosition : Prop :=
  ∀ d : Byte, (frame d).length = 30 ∧
    (∀ k, k < 7 → (frame d)[k]? = some ([true, true, true, false, false, true, false].getD k false)) ∧
    (∀ k, 7 ≤ k → k ≤ 14 → (frame d)[k]? = some ((fec d).getLsbD (14 - k))) ∧
    (∀ k, 15 ≤ k → k ≤ 22 → (frame d)[k]? = some (d.getLsbD (22 - k))) ∧
    (∀ k, 23 ≤ k → k ≤ 29 → (frame d)[k]? = some ([true, false, true, true, false, false, false].getD (k - 23) false)) ∧
    (∀ k, k < 30 → (frame d)[k]? = some ((frameWord d).getLsbD (29 - k)))

/-- R67, R68, R69: the chip stream of a byte is 1920 bytes, the 64 bytes at burst k being the whole PRN sequence that frame bit
k selects. -/
def Obligations.ChipStreamIsThirtyWholeSequences : Prop :=
  ∀ (b : Build) (d : Byte), (chipStream b d).length = 1920 ∧
    ∀ k, k < 30 → ((chipStream b d).drop (64 * k)).take 64 =
      (if (frame d).getD k false then b.prnOne.toList else b.prnZero.toList)

/-! ### Power (43_pacer.md) -/

/-- R92, R93: SETPWR completes in one silent step that writes POWER and RESULT with the byte of the lookup and nothing else. The
gap case follows the spec's own reading (90_conflicts.md C2, D33; log 14) and claims nothing of the source's code. -/
def Obligations.SetPwrLooksUpCalibrationByte : Prop :=
  ∀ s : State, s.seq = some .setPwr → s.build.powerTable.wf = true →
    ∃ b : Byte, exec .setPwr s = .next { s with power := b, result := b.setWidth 30, busy := false, seq := none } ∧
      (∀ e, e ∈ s.build.powerTable.entries → e.dbm = s.lData.toInt → b = e.cal) ∧
      (∀ e, s.build.powerTable.entries.head? = some e → s.lData.toInt < e.dbm → b = e.cal) ∧
      (∀ e, s.build.powerTable.entries.getLast? = some e → e.dbm < s.lData.toInt → b = e.cal) ∧
      ((∀ e, e ∈ s.build.powerTable.entries → e.dbm ≠ s.lData.toInt) →
        (∃ e, e ∈ s.build.powerTable.entries ∧ e.dbm < s.lData.toInt) →
        (∃ e, e ∈ s.build.powerTable.entries ∧ s.lData.toInt < e.dbm) → b = s.build.powerDefault)

/-! ### Completion steps of the stream and pacer commands -/

/-- R83: BEGIN completes with its START_TX strobe where the length is at most 64, and else with the write event of the last
refill chunk. -/
def Obligations.BeginCompletesWithItsLastEvent : Prop :=
  (∀ s : State, s.seq = some (.beginTx .start) → s.lLen.toNat ≤ 64 →
    exec .beginTx s = .next { s with
      trace := s.trace ++ [.strobe s.build.strobeStart s.nextStatus], lastDev := s.nextStatus, devIn := s.devIn.tail,
      devDraws := if s.devIn.isEmpty then s.devDraws + 1 else s.devDraws, busy := false, seq := none }) ∧
  (∀ (s : State) (off n : Nat) (buf : List Byte), s.seq = some (.beginTx (.refill (.chunk off n n buf))) →
    buf.length = n →
    ∃ w r : Word, exec .beginTx s = .next { s with
      trace := s.trace ++ [.writeBuf buf], sessWritten := w, sessRemaining := r, busy := false, seq := none } ∧
      w.toNat = (s.sessWritten.toNat + n) % 2 ^ s.build.lenWidth % 2 ^ 32 ∧
      (n ≤ s.sessRemaining.toNat → s.sessRemaining.toNat < 2 ^ s.build.lenWidth → r.toNat = s.sessRemaining.toNat - n))

/-- R84: CONT completes with the write event of its last chunk; a zero length is one silent step that clears the counters. -/
def Obligations.ContCompletesWithItsLastWrite : Prop :=
  (∀ (s : State) (off n : Nat) (buf : List Byte), s.seq = some (.cont (.chunk off n n buf)) → buf.length = n →
    ∃ w r : Word, exec .cont s = .next { s with
      trace := s.trace ++ [.writeBuf buf], sessWritten := w, sessRemaining := r, busy := false, seq := none } ∧
      w.toNat = (s.sessWritten.toNat + n) % 2 ^ s.build.lenWidth % 2 ^ 32 ∧
      (n ≤ s.sessRemaining.toNat → s.sessRemaining.toNat < 2 ^ s.build.lenWidth → r.toNat = s.sessRemaining.toNat - n)) ∧
  (∀ s : State, s.seq = some (firstPoint 0 .cont) →
    exec .cont s = .next { s with sessWritten := 0#32, sessRemaining := 0#32, busy := false, seq := none })

/-- R85: CONTZ completes with the WriteZeros of its last chunk; a zero length is one silent step that clears the counters. -/
def Obligations.ContZCompletesWithItsLastWrite : Prop :=
  (∀ (s : State) (off n : Nat) (buf : List Byte), s.seq = some (.contZ (.chunk off n n buf)) →
    ∃ w r : Word, exec .contZ s = .next { s with
      trace := s.trace ++ [.writeZeros n], sessWritten := w, sessRemaining := r, busy := false, seq := none } ∧
      w.toNat = (s.sessWritten.toNat + n) % 2 ^ s.build.lenWidth % 2 ^ 32 ∧
      (n ≤ s.sessRemaining.toNat → s.sessRemaining.toNat < 2 ^ s.build.lenWidth → r.toNat = s.sessRemaining.toNat - n)) ∧
  (∀ s : State, s.seq = some (firstPoint 0 .contZ) →
    exec .contZ s = .next { s with sessWritten := 0#32, sessRemaining := 0#32, busy := false, seq := none })

/-- R86, R89, R91: END, TXBYTE and RAWTX complete with the IDLE strobe of their end, which sets PHASE to IDLE, and change
nothing else. -/
def Obligations.EndTxByteRawTxCompleteWithIdleStrobe : Prop :=
  ∀ (i : Instr) (s : State),
    (i = .endTx ∧ s.seq = some (.endTx .idle)) ∨ (i = .txByte ∧ s.seq = some (.txByte (.last .idle))) ∨
      (i = .rawTx ∧ s.seq = some (.rawTx (.close .idle))) →
    exec i s = .next { s with
      trace := s.trace ++ [.strobe s.build.strobeIdle s.nextStatus], lastDev := s.nextStatus, devIn := s.devIn.tail,
      devDraws := if s.devIn.isEmpty then s.devDraws + 1 else s.devDraws, phase := .idle, busy := false, seq := none }

/-- R90: TX completes with the Delay after its last byte, with the leading Delay where PRODUCTION has no byte to send, and with
one silent step where DETERMINISTIC has none. -/
def Obligations.TxCompletesWithItsLastDelay : Prop :=
  (∀ (s : State) (i ms : Nat), s.seq = some (.tx (.gapDelay i ms)) → s.lLen.toNat ≤ i + 1 → s.delayReturns = true →
    exec .tx s = .next { s with trace := s.trace ++ [.delay ms], busy := false, seq := none }) ∧
  (∀ (s : State) (r0 : Nat), s.seq = some (.tx (.leadDelay r0)) → s.lLen.toNat = 0 → s.delayReturns = true →
    exec .tx s = .next { s with trace := s.trace ++ [.delay r0], busy := false, seq := none }) ∧
  (∀ s : State, s.seq = some (firstPoint 0 .tx) → s.lLen.toNat = 0 → s.build.paceMode = .deterministic →
    exec .tx s = .next { s with busy := false, seq := none })

/-! ### Runs of whole commands under a listed device script -/

/-- R77, R83: BEGIN of at most 64 readable bytes, on a device that answers some polls not idle, then idle: the whole trace,
the counters and the phase, in as many steps as there are events. -/
def Obligations.BeginOfOneChunkRuns : Prop :=
  ∀ (s : State) (pre rest : List Byte) (idleSt f g : Byte),
    s.inputs = [] → s.seq = some (firstPoint s.lLen.toNat .beginTx) → s.lLen.toNat ≤ 64 →
    s.lLen.toNat < 2 ^ s.build.lenWidth → bufferReadable s.lAddr.toNat s.lLen.toNat s →
    (∀ x, x ∈ pre → x.extractLsb' 4 4 ≠ 0#4) → idleSt.extractLsb' 4 4 = 0#4 →
    s.devIn = pre ++ idleSt :: f :: g :: rest →
    ∃ t, runN (pre.length + s.lLen.toNat + 4) s = .next t ∧
      t.trace = s.trace ++ pre.map (.strobe s.build.strobeNop) ++
        [.strobe s.build.strobeNop idleSt, .strobe s.build.strobeFlush f] ++
        (List.range s.lLen.toNat).map (fun j => .memRead (s.lAddr.toNat + j) (Memory.read s.mem (s.lAddr.toNat + j))) ++
        [.writeBuf (sourceBytes s), .strobe s.build.strobeStart g] ∧
      t.busy = false ∧ t.fault = s.fault ∧ t.seq = none ∧ t.phase = .initialFill ∧ t.lastDev = g ∧ t.devIn = rest ∧
      t.sessWritten = s.lLen ∧ t.sessRemaining = 0#32

/-- R77, R80: past 64 bytes, in BEGIN and in RAWTX, the first chunk's bytes are read one a step from source index 0, its write event
is of exactly those 64 bytes, the START_TX strobe leads to the oscillator wait, which polls until the bits of OSC_MASK are clear, and
then comes the refill of the remaining bytes at source index 64. -/
def Obligations.LongBeginWaitsForOscillatorThenRefills : Prop :=
  ∀ (s : State) (at' : BeginPoint → Running), (at' = .beginTx ∨ at' = fun p => .rawTx (.stream p)) → 64 < s.lLen.toNat →
    (∀ buf : List Byte, s.seq = some (at' (.fill buf)) → buf.length < 64 →
      admits s.build (s.lAddr.toNat + buf.length) = true →
      exec (at' (.fill buf)).command s = .next { s with
        trace := s.trace ++ [.memRead (s.lAddr.toNat + buf.length) (Memory.read s.mem (s.lAddr.toNat + buf.length))],
        phase := if buf = [] then .initialFill else s.phase,
        seq := some (at' (.fill (buf ++ [Memory.read s.mem (s.lAddr.toNat + buf.length)]))) }) ∧
    (∀ buf : List Byte, s.seq = some (at' (.fill buf)) → buf.length = 64 →
      ∃ w r : Word, exec (at' (.fill buf)).command s = .next { s with
        trace := s.trace ++ [.writeBuf buf], sessWritten := w, sessRemaining := r, seq := some (at' .start) } ∧
        w.toNat = (s.sessWritten.toNat + 64) % 2 ^ s.build.lenWidth % 2 ^ 32 ∧
        (64 ≤ s.sessRemaining.toNat → s.sessRemaining.toNat < 2 ^ s.build.lenWidth →
          r.toNat = s.sessRemaining.toNat - 64)) ∧
    (s.seq = some (at' .start) → exec (at' .start).command s = .next { s with
      trace := s.trace ++ [.strobe s.build.strobeStart s.nextStatus], lastDev := s.nextStatus, devIn := s.devIn.tail,
      devDraws := if s.devIn.isEmpty then s.devDraws + 1 else s.devDraws, seq := some (at' .oscWait) }) ∧
    (s.seq = some (at' .oscWait) → ∃ t, exec (at' .oscWait).command s = .next t ∧ t.phase = s.phase ∧ t.busy = s.busy ∧
      t.trace = s.trace ++ [.strobe s.build.strobeNop s.nextStatus] ∧
      (s.nextStatus &&& s.build.oscMask = 0#8 → t.seq = some (at' (.refill (.enter 64 (s.lLen.toNat - 64))))) ∧
      (s.nextStatus &&& s.build.oscMask ≠ 0#8 → t.seq = some (at' .oscWait))) ∧
    (s.seq = some (at' (.refill (.enter 64 (s.lLen.toNat - 64)))) → s.delayReturns = true →
      exec (at' .oscWait).command s = .next { s with
        trace := s.trace ++ [.delay s.build.refillQuantum], phase := .streaming,
        seq := some (at' (.refill (.poll 64 (s.lLen.toNat - 64)))) })

/-- R78, R86: END on a device that answers some polls not drained, then 0x7F. -/
def Obligations.EndRunsToTheDrainedStatus : Prop :=
  ∀ (s : State) (pre rest : List Byte) (g : Byte),
    s.inputs = [] → s.seq = some (firstPoint s.lLen.toNat .endTx) → (∀ x, x ∈ pre → x ≠ 0x7F#8) →
    s.devIn = pre ++ 0x7F#8 :: g :: rest →
    runN (pre.length + 2) s = .next { s with
      trace := s.trace ++ pre.map (.strobe s.build.strobeNop) ++ [.strobe s.build.strobeNop 0x7F#8, .strobe s.build.strobeIdle g],
      phase := .idle, lastDev := g, devIn := rest, busy := false, seq := none }

/-- R76, R84, R85: CONT over readable memory and CONTZ come to their end within four steps a byte and three steps a byte on a
device that always reports a free slot. -/
def Obligations.ContinueEndsWhileSlotsAreFree : Prop :=
  ∀ s : State, s.inputs = [] → s.delayReturns = true → s.fault = false → 0 < s.lLen.toNat →
    s.lLen.toNat ≤ s.devIn.length → (∀ x, x ∈ s.devIn → x.extractLsb' 0 4 ≠ 0#4) →
    (s.seq = some (firstPoint s.lLen.toNat .contZ) →
      ∃ n t, n ≤ 3 * s.lLen.toNat ∧ runN n s = .next t ∧ t.busy = false ∧ t.seq = none ∧ t.fault = false ∧
        t.phase = .streaming) ∧
    (s.seq = some (firstPoint s.lLen.toNat .cont) → bufferReadable s.lAddr.toNat s.lLen.toNat s →
      ∃ n t, n ≤ 4 * s.lLen.toNat ∧ runN n s = .next t ∧ t.busy = false ∧ t.seq = none ∧ t.fault = false ∧
        t.phase = .streaming)

/-- R88, R89, R125: TXBYTE on a device that is idle, reports 15 free slots at each refill poll and is then drained: 441 events,
the chip stream, and the counts of each event. -/
def Obligations.TxByteRunsOneFrame : Prop :=
  ∀ (s : State) (rest : List Byte) (idleSt f g p e : Byte),
    s.inputs = [] → s.delayReturns = true → s.build.wf = true → s.seq = some (firstPoint s.lLen.toNat .txByte) →
    idleSt.extractLsb' 4 4 = 0#4 → p.extractLsb' 0 4 = 15#4 →
    s.devIn = idleSt :: f :: g :: (List.replicate 145 p ++ 0x7F#8 :: e :: rest) →
    ∃ t es, runN 441 s = .next t ∧ t.trace = s.trace ++ es ∧ es.length = 441 ∧
      sentBytes es = chipStream s.build s.lData ∧ writeBufCount es = 146 ∧ readOrZeroCount es = 0 ∧
      es.count (.delay s.build.refillQuantum) = 145 ∧ strobeCount s.build.strobeNop es = 147 ∧
      strobeCount s.build.strobeFlush es = 1 ∧ strobeCount s.build.strobeStart es = 1 ∧
      strobeCount s.build.strobeIdle es = 1 ∧
      t.busy = false ∧ t.fault = s.fault ∧ t.seq = none ∧ t.phase = .idle ∧ t.lastDev = e ∧ t.devIn = rest ∧
      t.result = s.result ∧ t.sessWritten = 64#32 ∧ t.sessRemaining = 0#32

/-- R80, R88, R90, R91: a command that started with no fault recorded and has come to its end with none has sent exactly its
bytes, in order, whatever the device reported and whatever the random service drew. -/
def Obligations.EndedCommandHasSentItsPayload : Prop :=
  ∀ (i : Instr) (s t : State) (n : Nat),
    s.inputs = [] → s.fault = false → s.seq = some (firstPoint s.lLen.toNat i) →
    runN n s = .next t → t.seq = none → t.fault = false →
    ∃ es, t.trace = s.trace ++ es ∧ sentBytes es = payload s i

/-- R124, R127: from every point of every command, a run without further moves from outside comes to the command's end where the
premises device_live and timer_live hold of it. -/
def Obligations.CommandsEndWhereDeviceAndTimerAreLive : Prop :=
  ∀ (s : State) (q : Running), s.inputs = [] → s.seq = some q → deviceLive s → timerLive s →
    ∃ n t, runN n s = .next t ∧ t.seq = none ∧ t.busy = false

/-! ### Waits that never end (42_fifo_stream.md R79, R81; 70_reset_and_hazards.md R116) -/

/-- R79, R81: in every command that has one, and while the awaited status does not come, each of the idle, oscillator and drain
waits strobes NOP and nothing else, without bound, and LSTX stays BUSY. -/
def Obligations.WaitsPollWithoutBound : Prop :=
  ∀ (s : State) (n : Nat), s.inputs = [] →
    (∀ at' : BeginPoint → Running, BeginPlace at' → (∀ m, m < n → isIdle (statusAt s m) = false) →
      (s.seq = some (at' .idleWait) → ∃ t, runN n s = .next t ∧ t.seq = s.seq ∧ t.busy = s.busy ∧ t.phase = s.phase ∧
        t.trace = s.trace ++ (List.range n).map (fun m => .strobe s.build.strobeNop (statusAt s m))) ∧
      (s.seq = some (at' .enter) → 0 < n →
        ∃ t, runN n s = .next t ∧ t.seq = some (at' .idleWait) ∧ t.busy = s.busy ∧ t.phase = .flushing ∧
          t.trace = s.trace ++ (List.range n).map (fun m => .strobe s.build.strobeNop (statusAt s m)))) ∧
    (∀ at' : BeginPoint → Running, BeginPlace at' → (∀ m, m < n → oscStable s.build.oscMask (statusAt s m) = false) →
      s.seq = some (at' .oscWait) → ∃ t, runN n s = .next t ∧ t.seq = s.seq ∧ t.busy = s.busy ∧ t.phase = s.phase ∧
        t.trace = s.trace ++ (List.range n).map (fun m => .strobe s.build.strobeNop (statusAt s m))) ∧
    (∀ at' : EndPoint → Running, EndPlace at' → (∀ m, m < n → isDrained (statusAt s m) = false) →
      (s.seq = some (at' .drainWait) → ∃ t, runN n s = .next t ∧ t.seq = s.seq ∧ t.busy = s.busy ∧ t.phase = s.phase ∧
        t.trace = s.trace ++ (List.range n).map (fun m => .strobe s.build.strobeNop (statusAt s m))) ∧
      (s.seq = some (at' .enter) → 0 < n →
        ∃ t, runN n s = .next t ∧ t.seq = some (at' .drainWait) ∧ t.busy = s.busy ∧ t.phase = .draining ∧
          t.trace = s.trace ++ (List.range n).map (fun m => .strobe s.build.strobeNop (statusAt s m))))

/-- R76, R81: in every command that has one, a refill that is told 0 free slots writes an empty chunk, advances nothing and goes on,
pass after pass; a first such pass does, besides, what the first Delay does. -/
def Obligations.RefillWithoutFreeSlotsAdvancesNothing : Prop :=
  ∀ (s : State) (restart : Bool) (at' : RefillPoint → Running) (off rem n : Nat), RefillPlace restart at' →
    s.inputs = [] → s.delayReturns = true → 0 < rem → (∀ m, m < n → freeSlots (statusAt s m) = 0) →
    (s.seq = some (at' (.delay off rem)) →
      s.sessWritten.toNat < 2 ^ s.build.lenWidth → s.sessRemaining.toNat < 2 ^ s.build.lenWidth →
      ∃ t, runN (3 * n) s = .next t ∧ t.seq = s.seq ∧ t.busy = s.busy ∧ t.phase = s.phase ∧
        t.sessWritten = s.sessWritten ∧ t.sessRemaining = s.sessRemaining ∧
        t.trace = s.trace ++ ((List.range n).map (fun m =>
          [.delay s.build.refillQuantum, .strobe s.build.strobeNop (statusAt s m),
            if (at' (.delay off rem)).command = .contZ then .writeZeros 0 else .writeBuf []])).flatten) ∧
    (s.seq = some (at' (.enter off rem)) → 0 < n →
      ∃ t, runN 3 s = .next t ∧ t.seq = some (at' (.delay off rem)) ∧ t.busy = s.busy ∧ t.phase = .streaming ∧
        (restart = true → t.sessWritten = 0#32 ∧ (rem < 2 ^ s.build.lenWidth → rem < 2 ^ 32 → t.sessRemaining.toNat = rem)) ∧
        (restart = false → s.sessWritten.toNat < 2 ^ s.build.lenWidth → s.sessRemaining.toNat < 2 ^ s.build.lenWidth →
          t.sessWritten = s.sessWritten ∧ t.sessRemaining = s.sessRemaining) ∧
        t.trace = s.trace ++ [.delay s.build.refillQuantum, .strobe s.build.strobeNop (statusAt s 0),
          if (at' (.delay off rem)).command = .contZ then .writeZeros 0 else .writeBuf []])

/-- R116: LSTX hangs in a Delay that does not return (a step that changes nothing is the model's form of it, log 4), and in nothing
else of the timing service. A Delay that returns appends that Delay: the refill quantum before each pass of a refill, the first
setting PHASE and, where the refill starts them anew, the counters (R76, R84, R87); the drawn time before the first byte of TX and
its gap after a byte (R90). -/
def Obligations.DelayThatDoesNotReturnHangs : Prop :=
  ∀ (s : State) (q : Running), s.seq = some q →
    (delayOutstanding s = true → exec q.command s = .next s) ∧
    (∀ ms, pendingDelay s.build q = some ms → s.delayReturns = true →
      ∃ t, exec q.command s = .next t ∧ t.trace = s.trace ++ [.delay ms]) ∧
    (pendingDelay s.build q = none → exec q.command { s with delayReturns := !s.delayReturns } =
      match exec q.command s with
      | .next t => .next { t with delayReturns := !s.delayReturns }
      | .fault r => .fault r
      | .refused r => .refused r) ∧
    (∀ (restart : Bool) (at' : RefillPoint → Running) (off rem : Nat), RefillPlace restart at' → s.delayReturns = true →
      (q = at' (.enter off rem) → q ≠ .cont (.enter 0 0) → q ≠ .contZ (.enter 0 0) →
        ∃ w r : Word, exec q.command s = .next { s with
          trace := s.trace ++ [.delay s.build.refillQuantum], phase := .streaming, sessWritten := w, sessRemaining := r,
          seq := some (at' (.poll off rem)) } ∧
          (restart = true → w = 0#32 ∧ r.toNat = rem % 2 ^ s.build.lenWidth % 2 ^ 32) ∧
          (restart = false → w = s.sessWritten ∧ r = s.sessRemaining)) ∧
      (q = at' (.delay off rem) → exec q.command s = .next { s with
          trace := s.trace ++ [.delay s.build.refillQuantum], seq := some (at' (.poll off rem)) })) ∧
    (∀ r0, q = .tx (.leadDelay r0) → pendingDelay s.build q = some r0) ∧
    (∀ i ms, q = .tx (.gapDelay i ms) → pendingDelay s.build q = some ms)

/-! ### Pacing (43_pacer.md R90, 60_exceptions.md R106) -/

/-- R90: PRODUCTION draws the leading delay from 0 to 1999 first, and a gap from 8000 to 11999 after each byte's frame;
DETERMINISTIC waits 1000 ms after each frame; after the gap of byte i comes byte i + 1. -/
def Obligations.TxPacesItsFrames : Prop :=
  (∀ s : State, s.seq = some (.tx .start) → s.build.paceMode = .production →
    ∃ t r, exec .tx s = .next t ∧ r < 2000 ∧ t.trace = s.trace ++ [.random 0 2000 r] ∧ t.seq = some (.tx (.leadDelay r)) ∧
      t.busy = s.busy) ∧
  (∀ (s : State) (r0 : Nat), s.seq = some (.tx (.leadDelay r0)) → 0 < s.lLen.toNat → s.delayReturns = true →
    exec .tx s = .next { s with trace := s.trace ++ [.delay r0], seq := some (.tx (.read 0)) }) ∧
  (∀ (s : State) (i : Nat) (d : Byte), s.seq = some (.tx (.frame i d (.last .idle))) →
    ∃ t, exec .tx s = .next t ∧ t.trace = s.trace ++ [.strobe s.build.strobeIdle s.nextStatus] ∧ t.phase = .idle ∧
      (s.build.paceMode = .deterministic → t.seq = some (.tx (.gapDelay i 1000))) ∧
      (s.build.paceMode = .production → t.seq = some (.tx (.gapDraw i)))) ∧
  (∀ (s : State) (i : Nat), s.seq = some (.tx (.gapDraw i)) →
    ∃ t r, exec .tx s = .next t ∧ 8000 ≤ r ∧ r < 12000 ∧ t.trace = s.trace ++ [.random 8000 12000 r] ∧
      t.seq = some (.tx (.gapDelay i r))) ∧
  (∀ (s : State) (i ms : Nat), s.seq = some (.tx (.gapDelay i ms)) → i + 1 < s.lLen.toNat → s.delayReturns = true →
    exec .tx s = .next { s with trace := s.trace ++ [.delay ms], seq := some (.tx (.read (i + 1))) })

/-- R106: a draw lies in its range, and every value of the range is the draw of some answer of the random service. -/
def Obligations.RandomDrawsCoverTheirRange : Prop :=
  ∀ (s : State) (lo hi : Nat), lo < hi →
    (lo ≤ s.nextRandom lo hi ∧ s.nextRandom lo hi < hi) ∧
    (∀ r, lo ≤ r → r < hi → ∃ raw, ∀ rest, State.nextRandom { s with rndIn := raw :: rest } lo hi = r)

/-! ### Source reads and the memory fault (20_memory.md R37, R38; 60_exceptions.md R97, R99) -/

/-- R37, R97: where the next step of the running command is a MemRead at `a`, an admitted read appends `MemRead(a, v)` with the byte
at `a`, and one that is not admitted raises MemFault, which sets FAULT, ERR and FAULT_ADDR, ends the command and changes nothing
else. -/
def Obligations.SourceReadIsTakenOrFaults : Prop :=
  ∀ (s : State) (q : Running) (a : Nat), s.seq = some q → sourceRead s q = some a →
    (admits s.build a = true → ∃ t, exec q.command s = .next t ∧
      t.trace = s.trace ++ [.memRead a (Memory.read s.mem a)] ∧ t.fault = s.fault ∧ t.err = s.err ∧ t.busy = s.busy ∧
      t.sessWritten = s.sessWritten ∧ t.sessRemaining = s.sessRemaining ∧ t.lastDev = s.lastDev) ∧
    (admits s.build a = false → exec q.command s = .next { s with
      fault := true, err := .memFault, faultAddr := BitVec.ofNat 32 (a % 2 ^ s.build.addrWidth), busy := false, seq := none })

/-- R95, R85: only the MemRead of TX, RAWTX, BEGIN or CONT can fault: where SEQ stands before no MemRead, and at every point of
ENCODE, FRAME, SETPWR, TXBYTE, CONTZ and END, the step leaves FAULT, ERR and FAULT_ADDR and reads no host memory. -/
def Obligations.OnlySourceReadsCanFault : Prop :=
  (∀ (s t : State) (q : Running), s.seq = some q → sourceRead s q = none → exec q.command s = .next t →
    t.fault = s.fault ∧ t.err = s.err ∧ t.faultAddr = s.faultAddr ∧ ∀ a v, t.trace ≠ s.trace ++ [.memRead a v]) ∧
  (∀ (i : Instr) (s t : State), i ∈ [Instr.encode, .frame, .setPwr, .txByte, .contZ, .endTx] → exec i s = .next t →
    t.fault = s.fault ∧ t.err = s.err ∧ t.faultAddr = s.faultAddr ∧ ∀ a v, t.trace ≠ s.trace ++ [.memRead a v])

/-- R75, R76, R84, R85, R87: in every command that has a refill, the chunk of a pass is the smaller of the free slots its poll reported
and what remains, no more than 15 bytes; a source in host memory is then read byte by byte; and the chunk's write event carries
exactly its bytes (those read, zeros in CONTZ, those of the selected PRN sequence in a frame), advances the counters by their
number, and leads to the next pass or, after the last byte, to what follows the refill. -/
def Obligations.RefillChunkIsWhatThePollReported : Prop :=
  (∀ (s : State) (restart : Bool) (at' : RefillPoint → Running) (off rem : Nat), RefillPlace restart at' →
    s.seq = some (at' (.poll off rem)) →
    ∃ t n, exec (at' (.poll off rem)).command s = .next t ∧
      t.trace = s.trace ++ [.strobe s.build.strobeNop s.nextStatus] ∧
      n = min (s.nextStatus.extractLsb' 0 4).toNat rem ∧ n ≤ 15 ∧ t.seq = some (at' (.chunk off rem n [])) ∧
      t.busy = s.busy ∧ t.phase = s.phase ∧ t.sessWritten = s.sessWritten ∧ t.sessRemaining = s.sessRemaining) ∧
  (∀ (s : State) (at' : RefillPoint → Running) (next : Option Running) (off rem n : Nat) (buf : List Byte),
    (at', next) ∈ [(Running.cont, none), (fun p => .beginTx (.refill p), none),
      (fun p => .rawTx (.stream (.refill p)), some (.rawTx (.close .enter)))] →
    (buf.length < n → s.seq = some (at' (.chunk off rem n buf)) →
      admits s.build (s.lAddr.toNat + off + buf.length) = true →
      exec (at' (.chunk off rem n buf)).command s = .next { s with
        trace := s.trace ++ [.memRead (s.lAddr.toNat + off + buf.length) (Memory.read s.mem (s.lAddr.toNat + off + buf.length))],
        seq := some (at' (.chunk off rem n (buf ++ [Memory.read s.mem (s.lAddr.toNat + off + buf.length)]))) }) ∧
    (buf.length = n → WritesChunk s at' off rem n buf (.writeBuf buf) next)) ∧
  (∀ (s : State) (off rem n : Nat) (buf : List Byte), WritesChunk s .contZ off rem n buf (.writeZeros n) none) ∧
  (∀ (s : State) (off rem n i k : Nat) (d : Byte) (buf : List Byte), off + n ≤ 64 →
    WritesChunk s (fun p => .txByte (.burst k p)) off rem n buf
      (.writeBuf (((if (frame s.lData).getD k false then s.build.prnOne.toList else s.build.prnZero.toList).drop off).take n))
      (some (.txByte (if k + 1 < 30 then .burst (k + 1) (.enter 0 64) else .last .enter))) ∧
    WritesChunk s (fun p => .tx (.frame i d (.burst k p))) off rem n buf
      (.writeBuf (((if (frame d).getD k false then s.build.prnOne.toList else s.build.prnZero.toList).drop off).take n))
      (some (.tx (.frame i d (if k + 1 < 30 then .burst (k + 1) (.enter 0 64) else .last .enter)))) ∧
    WritesChunk s (fun p => .txByte (.first (.refill p))) off rem n buf
      (.writeBuf (((if (frame s.lData).getD 0 false then s.build.prnOne.toList else s.build.prnZero.toList).drop off).take n))
      (some (.txByte (.burst 1 (.enter 0 64)))) ∧
    WritesChunk s (fun p => .tx (.frame i d (.first (.refill p)))) off rem n buf
      (.writeBuf (((if (frame d).getD 0 false then s.build.prnOne.toList else s.build.prnZero.toList).drop off).take n))
      (some (.tx (.frame i d (.burst 1 (.enter 0 64))))))

/-! ### Frames: what a command leaves alone -/

/-- R14 to R16, R21, R22 to R24, R39: no step of any command writes an ARG register, a latch, a parameter, host memory or
anything of the outside but the answers it takes; and of all steps of the machine only a host memory write changes host memory. -/
def Obligations.CommandsLeaveOperandsAndMemory : Prop :=
  (∀ (s t : State) (a : Nat), step s = .next t → Memory.read t.mem a ≠ Memory.read s.mem a →
    ∃ v rest, s.inputs = .memWrite a v :: rest) ∧
  ∀ (i : Instr) (s t : State), exec i s = .next t →
    t.argData = s.argData ∧ t.argAddr = s.argAddr ∧ t.argLen = s.argLen ∧
    t.lOp = s.lOp ∧ t.lZf = s.lZf ∧ t.lData = s.lData ∧ t.lAddr = s.lAddr ∧ t.lLen = s.lLen ∧
    t.build = s.build ∧ (∀ a, Memory.read t.mem a = Memory.read s.mem a) ∧ Memory.wf t.mem = Memory.wf s.mem ∧
    t.inputs = s.inputs ∧ t.delayReturns = s.delayReturns ∧ t.busData = s.busData

/-- The frame of BEGIN, CONT, CONTZ, END, TXBYTE, TX and RAWTX, besides what no command writes: RESULT and POWER always; the random
draws but for TX; the counters for END; what one step appends to TRACE is at most one event; and the counters change only with a
write event, the first NOP strobe of a begin, the first Delay of a refill that starts them anew, or the silent step of a CONT or
CONTZ of length 0 (R17, R18, R75, R77, R84 to R87). -/
def Obligations.StreamCommandsFrame : Prop :=
  ∀ (i : Instr) (s t : State), i ∈ [Instr.beginTx, .cont, .contZ, .endTx, .txByte, .tx, .rawTx] → exec i s = .next t →
    t.result = s.result ∧ t.power = s.power ∧
    (i ≠ .tx → t.rndIn = s.rndIn ∧ t.rndDraws = s.rndDraws) ∧
    (i = .endTx → t.sessWritten = s.sessWritten ∧ t.sessRemaining = s.sessRemaining) ∧
    (t.trace = s.trace ∨ ∃ e, t.trace = s.trace ++ [e]) ∧
    ((∀ c st, t.trace ≠ s.trace ++ [.strobe c st]) →
      t.lastDev = s.lastDev ∧ t.devIn = s.devIn ∧ t.devDraws = s.devDraws) ∧
    ((t.sessWritten ≠ s.sessWritten ∨ t.sessRemaining ≠ s.sessRemaining) →
      (∃ bs, t.trace = s.trace ++ [.writeBuf bs]) ∨ (∃ n, t.trace = s.trace ++ [.writeZeros n]) ∨
      (∃ at' st, BeginPlace at' ∧ s.seq = some (at' .enter) ∧ t.trace = s.trace ++ [.strobe s.build.strobeNop st]) ∨
      (∃ at' off rem, RefillPlace true at' ∧ s.seq = some (at' (.enter off rem)) ∧
        t.trace = s.trace ++ [.delay s.build.refillQuantum]) ∨
      ((s.seq = some (.cont (.enter 0 0)) ∨ s.seq = some (.contZ (.enter 0 0))) ∧ t.trace = s.trace ∧ t.seq = none))

/-- R17, R18: RESULT is written only by ENCODE, FRAME and SETPWR and by reset, POWER only by SETPWR and by reset. -/
def Obligations.ResultAndPowerWriters : Prop :=
  ∀ s t : State, step s = .next t →
    (t.result ≠ s.result → s.inputs.head? = some .reset ∨
      s.seq = some .encode ∨ s.seq = some .frame ∨ s.seq = some .setPwr) ∧
    (t.power ≠ s.power → s.inputs.head? = some .reset ∨ s.seq = some .setPwr)

/-- R21: acceptance copies the operands into the latches, which no host load shows; and the running command reads only the latches,
so a host write to an ARG register has no effect on it: its next step is the same but for the ARG registers themselves. -/
def Obligations.ArgWritesDoNotReachTheRunningCommand : Prop :=
  (∀ (s : State) (w : Word) (i : Instr), s.fault = false → s.busy = false → decodeWord w = .ok i →
    ∃ t, hostStore 0x00 4 w s = .next t ∧ t.lOp = w.extractLsb' 0 4 ∧ t.lZf = w.getLsbD 4 ∧ t.lData = s.argData ∧
      t.lAddr = s.argAddr ∧ t.lLen = s.argLen) ∧
  (∀ (s : State) (off width : Nat) (o : BitVec 4) (z : Bool) (d : Byte) (a l : Word),
    hostLoad off width { s with lOp := o, lZf := z, lData := d, lAddr := a, lLen := l } =
      match hostLoad off width s with
      | .next t => .next { t with lOp := o, lZf := z, lData := d, lAddr := a, lLen := l }
      | .fault r => .fault r
      | .refused r => .refused r) ∧
  ∀ (i : Instr) (s : State) (d : Byte) (a l : Word),
    exec i { s with argData := d, argAddr := a, argLen := l } =
      match exec i s with
      | .next t => .next { t with argData := d, argAddr := a, argLen := l }
      | .fault r => .fault r
      | .refused r => .refused r

/-! ### Whole-machine rules and invariants -/

/-- R25, R5: a step appends at most one event to TRACE, and only reset empties it. -/
def Obligations.TraceGrowsByAtMostOneEvent : Prop :=
  ∀ s t : State, step s = .next t →
    t.trace = s.trace ∨ (∃ e, t.trace = s.trace ++ [e]) ∨ (∃ rest, s.inputs = .reset :: rest ∧ t.trace = [])

/-- R40, R104, R106, R37: every event a step appends is one the ports allow: one of the four strobes, a write of at most 64 bytes,
a draw in its range, an admitted read of the byte in memory. -/
def Obligations.AppendedEventsAreAllowed : Prop :=
  ∀ (s t : State) (e : Event), SessionInv s → step s = .next t → t.trace = s.trace ++ [e] → eventOk s.build s.mem e

/-- Every step keeps the machine's invariant (canonical memory, R8 and R20, R51, R9, R11 and R97, R12, R15, R16, R19). -/
def Obligations.StepKeepsInv : Prop := ∀ s t : State, Inv s → step s = .next t → Inv t

/-- The invariants hold after reset. -/
def Obligations.ResetHasTheInvariants : Prop := Inv State.reset ∧ SessionInv State.reset ∧ PhaseInv State.reset

/-- R19: every step keeps the relation of the session counters to SEQ, and with it, wherever a stream procedure has written its
first counters, SESS_WRITTEN + SESS_REMAINING is the procedure's length, in a frame the 64 bytes of a burst. -/
def Obligations.StepKeepsSessionCounters : Prop :=
  (∀ s t : State, Inv s → s.build.widthsOk = true → SessionInv s → step s = .next t → SessionInv t) ∧
  (∀ (s : State) (p : RefillPoint), SessionInv s →
    (s.seq = some (.cont p) ∨ s.seq = some (.contZ p)) → (∀ n, p ≠ .enter 0 n) →
    s.sessWritten.toNat + s.sessRemaining.toNat = s.lLen.toNat) ∧
  (∀ (s : State) (p : BeginPoint), SessionInv s → (s.seq = some (.beginTx p) ∨ s.seq = some (.rawTx (.stream p))) →
    p ≠ .enter → s.sessWritten.toNat + s.sessRemaining.toNat = s.lLen.toNat) ∧
  (∀ (s : State) (p : BeginPoint) (i : Nat) (d : Byte), SessionInv s →
    (s.seq = some (.txByte (.first p)) ∨ s.seq = some (.tx (.frame i d (.first p)))) → p ≠ .enter →
    s.sessWritten.toNat + s.sessRemaining.toNat = 64) ∧
  (∀ (s : State) (p : RefillPoint) (i k : Nat) (d : Byte), SessionInv s →
    (s.seq = some (.txByte (.burst k p)) ∨ s.seq = some (.tx (.frame i d (.burst k p)))) → (∀ o r, p ≠ .enter o r) →
    s.sessWritten.toNat + s.sessRemaining.toNat = 64) ∧
  (∀ (s : State) (p : EndPoint) (i : Nat) (d : Byte), SessionInv s →
    (s.seq = some (.rawTx (.close p)) → s.sessWritten.toNat + s.sessRemaining.toNat = s.lLen.toNat) ∧
    (s.seq = some (.txByte (.last p)) ∨ s.seq = some (.tx (.frame i d (.last p))) →
      s.sessWritten.toNat + s.sessRemaining.toNat = 64))

/-- R10, R82: every step keeps PHASE the state of the point reached; and from such states INITIAL_FILL comes only after FLUSHING, and
IDLE only after DRAINING or by reset. -/
def Obligations.PhaseFollowsTheSession : Prop :=
  ∀ s t : State, PhaseInv s → step s = .next t →
    PhaseInv t ∧
    (t.phase = .initialFill → s.phase = .initialFill ∨ s.phase = .flushing) ∧
    (t.phase = .idle → s.phase = .idle ∨ s.phase = .draining ∨ ∃ rest, s.inputs = .reset :: rest)

/-- R10: PHASE changes only in the steps of its table: to FLUSHING in the first step of a begin, to INITIAL_FILL in the first step of
its first chunk, to STREAMING in the first step of a refill, to DRAINING in the first step of an end, and to IDLE in an end's last
step or by reset. -/
def Obligations.PhaseChangesOnlyWithItsEvent : Prop :=
  ∀ s t : State, step s = .next t → t.phase ≠ s.phase →
    (∃ rest, s.inputs = .reset :: rest ∧ t.phase = .idle) ∨
    (t.phase = .flushing ∧ ∃ at' st, BeginPlace at' ∧ s.seq = some (at' .enter) ∧
      t.trace = s.trace ++ [.strobe s.build.strobeNop st]) ∨
    (t.phase = .initialFill ∧ ∃ at', BeginPlace at' ∧ s.seq = some (at' (.fill [])) ∧
      ((∃ a v, t.trace = s.trace ++ [.memRead a v]) ∨ ∃ bs, t.trace = s.trace ++ [.writeBuf bs])) ∨
    (t.phase = .streaming ∧ ∃ restart at' off rem, RefillPlace restart at' ∧ s.seq = some (at' (.enter off rem)) ∧
      t.trace = s.trace ++ [.delay s.build.refillQuantum]) ∨
    (t.phase = .draining ∧ ∃ at' st, EndPlace at' ∧ s.seq = some (at' .enter) ∧
      t.trace = s.trace ++ [.strobe s.build.strobeNop st]) ∨
    (t.phase = .idle ∧ ∃ at' st, EndPlace at' ∧ s.seq = some (at' .idle) ∧
      t.trace = s.trace ++ [.strobe s.build.strobeIdle st])

/-- R126, R53: in states that meet the invariant, LSTX takes a new command exactly when the run is at its good end. -/
def Obligations.GoodEndIsNotBusyAndNotFaulted : Prop :=
  ∀ s : State, Inv s →
    (goodEnd s = true ↔ s.busy = false ∧ s.fault = false) ∧
    (goodEnd s = true ↔ ∀ i : Instr, ∃ t, hostStore 0x00 4 (encodeWord i) s = .next t ∧ t.busy = true ∧
      t.seq.map Running.command = some i ∧ t.err = .none)
end

