-- ==== Sys2Proof/Laws/State.lean ====
section
/-! SUPPORT. One lemma per field of State per shared update, each true by rfl: no later proof unfolds a record update. -/

namespace Sys2Proof.Machine

section
variable (q : Running) (s : State)

@[simp] theorem goto_busy : (goto q s).busy = s.busy := rfl
@[simp] theorem goto_fault : (goto q s).fault = s.fault := rfl
@[simp] theorem goto_phase : (goto q s).phase = s.phase := rfl
@[simp] theorem goto_err : (goto q s).err = s.err := rfl
@[simp] theorem goto_lastDev : (goto q s).lastDev = s.lastDev := rfl
@[simp] theorem goto_argData : (goto q s).argData = s.argData := rfl
@[simp] theorem goto_argAddr : (goto q s).argAddr = s.argAddr := rfl
@[simp] theorem goto_argLen : (goto q s).argLen = s.argLen := rfl
@[simp] theorem goto_result : (goto q s).result = s.result := rfl
@[simp] theorem goto_power : (goto q s).power = s.power := rfl
@[simp] theorem goto_sessWritten : (goto q s).sessWritten = s.sessWritten := rfl
@[simp] theorem goto_sessRemaining : (goto q s).sessRemaining = s.sessRemaining := rfl
@[simp] theorem goto_faultAddr : (goto q s).faultAddr = s.faultAddr := rfl
@[simp] theorem goto_seq : (goto q s).seq = some q := rfl
@[simp] theorem goto_lOp : (goto q s).lOp = s.lOp := rfl
@[simp] theorem goto_lZf : (goto q s).lZf = s.lZf := rfl
@[simp] theorem goto_lData : (goto q s).lData = s.lData := rfl
@[simp] theorem goto_lAddr : (goto q s).lAddr = s.lAddr := rfl
@[simp] theorem goto_lLen : (goto q s).lLen = s.lLen := rfl
@[simp] theorem goto_trace : (goto q s).trace = s.trace := rfl
@[simp] theorem goto_build : (goto q s).build = s.build := rfl
@[simp] theorem goto_mem : (goto q s).mem = s.mem := rfl
@[simp] theorem goto_inputs : (goto q s).inputs = s.inputs := rfl
@[simp] theorem goto_devIn : (goto q s).devIn = s.devIn := rfl
@[simp] theorem goto_rndIn : (goto q s).rndIn = s.rndIn := rfl
@[simp] theorem goto_devDraws : (goto q s).devDraws = s.devDraws := rfl
@[simp] theorem goto_rndDraws : (goto q s).rndDraws = s.rndDraws := rfl
@[simp] theorem goto_delayReturns : (goto q s).delayReturns = s.delayReturns := rfl
@[simp] theorem goto_busData : (goto q s).busData = s.busData := rfl

end

section
variable (p : Phase) (s : State)

@[simp] theorem setPhase_busy : (setPhase p s).busy = s.busy := rfl
@[simp] theorem setPhase_fault : (setPhase p s).fault = s.fault := rfl
@[simp] theorem setPhase_phase : (setPhase p s).phase = p := rfl
@[simp] theorem setPhase_err : (setPhase p s).err = s.err := rfl
@[simp] theorem setPhase_lastDev : (setPhase p s).lastDev = s.lastDev := rfl
@[simp] theorem setPhase_argData : (setPhase p s).argData = s.argData := rfl
@[simp] theorem setPhase_argAddr : (setPhase p s).argAddr = s.argAddr := rfl
@[simp] theorem setPhase_argLen : (setPhase p s).argLen = s.argLen := rfl
@[simp] theorem setPhase_result : (setPhase p s).result = s.result := rfl
@[simp] theorem setPhase_power : (setPhase p s).power = s.power := rfl
@[simp] theorem setPhase_sessWritten : (setPhase p s).sessWritten = s.sessWritten := rfl
@[simp] theorem setPhase_sessRemaining : (setPhase p s).sessRemaining = s.sessRemaining := rfl
@[simp] theorem setPhase_faultAddr : (setPhase p s).faultAddr = s.faultAddr := rfl
@[simp] theorem setPhase_seq : (setPhase p s).seq = s.seq := rfl
@[simp] theorem setPhase_lOp : (setPhase p s).lOp = s.lOp := rfl
@[simp] theorem setPhase_lZf : (setPhase p s).lZf = s.lZf := rfl
@[simp] theorem setPhase_lData : (setPhase p s).lData = s.lData := rfl
@[simp] theorem setPhase_lAddr : (setPhase p s).lAddr = s.lAddr := rfl
@[simp] theorem setPhase_lLen : (setPhase p s).lLen = s.lLen := rfl
@[simp] theorem setPhase_trace : (setPhase p s).trace = s.trace := rfl
@[simp] theorem setPhase_build : (setPhase p s).build = s.build := rfl
@[simp] theorem setPhase_mem : (setPhase p s).mem = s.mem := rfl
@[simp] theorem setPhase_inputs : (setPhase p s).inputs = s.inputs := rfl
@[simp] theorem setPhase_devIn : (setPhase p s).devIn = s.devIn := rfl
@[simp] theorem setPhase_rndIn : (setPhase p s).rndIn = s.rndIn := rfl
@[simp] theorem setPhase_devDraws : (setPhase p s).devDraws = s.devDraws := rfl
@[simp] theorem setPhase_rndDraws : (setPhase p s).rndDraws = s.rndDraws := rfl
@[simp] theorem setPhase_delayReturns : (setPhase p s).delayReturns = s.delayReturns := rfl
@[simp] theorem setPhase_busData : (setPhase p s).busData = s.busData := rfl

end

section
variable (v : BitVec 30) (s : State)

@[simp] theorem setResult_busy : (setResult v s).busy = s.busy := rfl
@[simp] theorem setResult_fault : (setResult v s).fault = s.fault := rfl
@[simp] theorem setResult_phase : (setResult v s).phase = s.phase := rfl
@[simp] theorem setResult_err : (setResult v s).err = s.err := rfl
@[simp] theorem setResult_lastDev : (setResult v s).lastDev = s.lastDev := rfl
@[simp] theorem setResult_argData : (setResult v s).argData = s.argData := rfl
@[simp] theorem setResult_argAddr : (setResult v s).argAddr = s.argAddr := rfl
@[simp] theorem setResult_argLen : (setResult v s).argLen = s.argLen := rfl
@[simp] theorem setResult_result : (setResult v s).result = v := rfl
@[simp] theorem setResult_power : (setResult v s).power = s.power := rfl
@[simp] theorem setResult_sessWritten : (setResult v s).sessWritten = s.sessWritten := rfl
@[simp] theorem setResult_sessRemaining : (setResult v s).sessRemaining = s.sessRemaining := rfl
@[simp] theorem setResult_faultAddr : (setResult v s).faultAddr = s.faultAddr := rfl
@[simp] theorem setResult_seq : (setResult v s).seq = s.seq := rfl
@[simp] theorem setResult_lOp : (setResult v s).lOp = s.lOp := rfl
@[simp] theorem setResult_lZf : (setResult v s).lZf = s.lZf := rfl
@[simp] theorem setResult_lData : (setResult v s).lData = s.lData := rfl
@[simp] theorem setResult_lAddr : (setResult v s).lAddr = s.lAddr := rfl
@[simp] theorem setResult_lLen : (setResult v s).lLen = s.lLen := rfl
@[simp] theorem setResult_trace : (setResult v s).trace = s.trace := rfl
@[simp] theorem setResult_build : (setResult v s).build = s.build := rfl
@[simp] theorem setResult_mem : (setResult v s).mem = s.mem := rfl
@[simp] theorem setResult_inputs : (setResult v s).inputs = s.inputs := rfl
@[simp] theorem setResult_devIn : (setResult v s).devIn = s.devIn := rfl
@[simp] theorem setResult_rndIn : (setResult v s).rndIn = s.rndIn := rfl
@[simp] theorem setResult_devDraws : (setResult v s).devDraws = s.devDraws := rfl
@[simp] theorem setResult_rndDraws : (setResult v s).rndDraws = s.rndDraws := rfl
@[simp] theorem setResult_delayReturns : (setResult v s).delayReturns = s.delayReturns := rfl
@[simp] theorem setResult_busData : (setResult v s).busData = s.busData := rfl

end

section
variable (v : Byte) (s : State)

@[simp] theorem setPower_busy : (setPower v s).busy = s.busy := rfl
@[simp] theorem setPower_fault : (setPower v s).fault = s.fault := rfl
@[simp] theorem setPower_phase : (setPower v s).phase = s.phase := rfl
@[simp] theorem setPower_err : (setPower v s).err = s.err := rfl
@[simp] theorem setPower_lastDev : (setPower v s).lastDev = s.lastDev := rfl
@[simp] theorem setPower_argData : (setPower v s).argData = s.argData := rfl
@[simp] theorem setPower_argAddr : (setPower v s).argAddr = s.argAddr := rfl
@[simp] theorem setPower_argLen : (setPower v s).argLen = s.argLen := rfl
@[simp] theorem setPower_result : (setPower v s).result = s.result := rfl
@[simp] theorem setPower_power : (setPower v s).power = v := rfl
@[simp] theorem setPower_sessWritten : (setPower v s).sessWritten = s.sessWritten := rfl
@[simp] theorem setPower_sessRemaining : (setPower v s).sessRemaining = s.sessRemaining := rfl
@[simp] theorem setPower_faultAddr : (setPower v s).faultAddr = s.faultAddr := rfl
@[simp] theorem setPower_seq : (setPower v s).seq = s.seq := rfl
@[simp] theorem setPower_lOp : (setPower v s).lOp = s.lOp := rfl
@[simp] theorem setPower_lZf : (setPower v s).lZf = s.lZf := rfl
@[simp] theorem setPower_lData : (setPower v s).lData = s.lData := rfl
@[simp] theorem setPower_lAddr : (setPower v s).lAddr = s.lAddr := rfl
@[simp] theorem setPower_lLen : (setPower v s).lLen = s.lLen := rfl
@[simp] theorem setPower_trace : (setPower v s).trace = s.trace := rfl
@[simp] theorem setPower_build : (setPower v s).build = s.build := rfl
@[simp] theorem setPower_mem : (setPower v s).mem = s.mem := rfl
@[simp] theorem setPower_inputs : (setPower v s).inputs = s.inputs := rfl
@[simp] theorem setPower_devIn : (setPower v s).devIn = s.devIn := rfl
@[simp] theorem setPower_rndIn : (setPower v s).rndIn = s.rndIn := rfl
@[simp] theorem setPower_devDraws : (setPower v s).devDraws = s.devDraws := rfl
@[simp] theorem setPower_rndDraws : (setPower v s).rndDraws = s.rndDraws := rfl
@[simp] theorem setPower_delayReturns : (setPower v s).delayReturns = s.delayReturns := rfl
@[simp] theorem setPower_busData : (setPower v s).busData = s.busData := rfl

end

section
variable (len : Nat) (s : State)

@[simp] theorem openCount_busy : (openCount len s).busy = s.busy := rfl
@[simp] theorem openCount_fault : (openCount len s).fault = s.fault := rfl
@[simp] theorem openCount_phase : (openCount len s).phase = s.phase := rfl
@[simp] theorem openCount_err : (openCount len s).err = s.err := rfl
@[simp] theorem openCount_lastDev : (openCount len s).lastDev = s.lastDev := rfl
@[simp] theorem openCount_argData : (openCount len s).argData = s.argData := rfl
@[simp] theorem openCount_argAddr : (openCount len s).argAddr = s.argAddr := rfl
@[simp] theorem openCount_argLen : (openCount len s).argLen = s.argLen := rfl
@[simp] theorem openCount_result : (openCount len s).result = s.result := rfl
@[simp] theorem openCount_power : (openCount len s).power = s.power := rfl
@[simp] theorem openCount_sessWritten : (openCount len s).sessWritten = 0#32 := rfl
@[simp] theorem openCount_sessRemaining : (openCount len s).sessRemaining = s.lenCut len := rfl
@[simp] theorem openCount_faultAddr : (openCount len s).faultAddr = s.faultAddr := rfl
@[simp] theorem openCount_seq : (openCount len s).seq = s.seq := rfl
@[simp] theorem openCount_lOp : (openCount len s).lOp = s.lOp := rfl
@[simp] theorem openCount_lZf : (openCount len s).lZf = s.lZf := rfl
@[simp] theorem openCount_lData : (openCount len s).lData = s.lData := rfl
@[simp] theorem openCount_lAddr : (openCount len s).lAddr = s.lAddr := rfl
@[simp] theorem openCount_lLen : (openCount len s).lLen = s.lLen := rfl
@[simp] theorem openCount_trace : (openCount len s).trace = s.trace := rfl
@[simp] theorem openCount_build : (openCount len s).build = s.build := rfl
@[simp] theorem openCount_mem : (openCount len s).mem = s.mem := rfl
@[simp] theorem openCount_inputs : (openCount len s).inputs = s.inputs := rfl
@[simp] theorem openCount_devIn : (openCount len s).devIn = s.devIn := rfl
@[simp] theorem openCount_rndIn : (openCount len s).rndIn = s.rndIn := rfl
@[simp] theorem openCount_devDraws : (openCount len s).devDraws = s.devDraws := rfl
@[simp] theorem openCount_rndDraws : (openCount len s).rndDraws = s.rndDraws := rfl
@[simp] theorem openCount_delayReturns : (openCount len s).delayReturns = s.delayReturns := rfl
@[simp] theorem openCount_busData : (openCount len s).busData = s.busData := rfl

end

section
variable (n : Nat) (s : State)

@[simp] theorem countWritten_busy : (countWritten n s).busy = s.busy := rfl
@[simp] theorem countWritten_fault : (countWritten n s).fault = s.fault := rfl
@[simp] theorem countWritten_phase : (countWritten n s).phase = s.phase := rfl
@[simp] theorem countWritten_err : (countWritten n s).err = s.err := rfl
@[simp] theorem countWritten_lastDev : (countWritten n s).lastDev = s.lastDev := rfl
@[simp] theorem countWritten_argData : (countWritten n s).argData = s.argData := rfl
@[simp] theorem countWritten_argAddr : (countWritten n s).argAddr = s.argAddr := rfl
@[simp] theorem countWritten_argLen : (countWritten n s).argLen = s.argLen := rfl
@[simp] theorem countWritten_result : (countWritten n s).result = s.result := rfl
@[simp] theorem countWritten_power : (countWritten n s).power = s.power := rfl
@[simp] theorem countWritten_sessWritten : (countWritten n s).sessWritten = s.lenCut (s.sessWritten.toNat + n) := rfl
@[simp] theorem countWritten_sessRemaining : (countWritten n s).sessRemaining = s.lenCut (s.sessRemaining - BitVec.ofNat 32 n).toNat := rfl
@[simp] theorem countWritten_faultAddr : (countWritten n s).faultAddr = s.faultAddr := rfl
@[simp] theorem countWritten_seq : (countWritten n s).seq = s.seq := rfl
@[simp] theorem countWritten_lOp : (countWritten n s).lOp = s.lOp := rfl
@[simp] theorem countWritten_lZf : (countWritten n s).lZf = s.lZf := rfl
@[simp] theorem countWritten_lData : (countWritten n s).lData = s.lData := rfl
@[simp] theorem countWritten_lAddr : (countWritten n s).lAddr = s.lAddr := rfl
@[simp] theorem countWritten_lLen : (countWritten n s).lLen = s.lLen := rfl
@[simp] theorem countWritten_trace : (countWritten n s).trace = s.trace := rfl
@[simp] theorem countWritten_build : (countWritten n s).build = s.build := rfl
@[simp] theorem countWritten_mem : (countWritten n s).mem = s.mem := rfl
@[simp] theorem countWritten_inputs : (countWritten n s).inputs = s.inputs := rfl
@[simp] theorem countWritten_devIn : (countWritten n s).devIn = s.devIn := rfl
@[simp] theorem countWritten_rndIn : (countWritten n s).rndIn = s.rndIn := rfl
@[simp] theorem countWritten_devDraws : (countWritten n s).devDraws = s.devDraws := rfl
@[simp] theorem countWritten_rndDraws : (countWritten n s).rndDraws = s.rndDraws := rfl
@[simp] theorem countWritten_delayReturns : (countWritten n s).delayReturns = s.delayReturns := rfl
@[simp] theorem countWritten_busData : (countWritten n s).busData = s.busData := rfl

end

section
variable (s : State)

@[simp] theorem complete_busy : (complete s).busy = false := rfl
@[simp] theorem complete_fault : (complete s).fault = s.fault := rfl
@[simp] theorem complete_phase : (complete s).phase = s.phase := rfl
@[simp] theorem complete_err : (complete s).err = s.err := rfl
@[simp] theorem complete_lastDev : (complete s).lastDev = s.lastDev := rfl
@[simp] theorem complete_argData : (complete s).argData = s.argData := rfl
@[simp] theorem complete_argAddr : (complete s).argAddr = s.argAddr := rfl
@[simp] theorem complete_argLen : (complete s).argLen = s.argLen := rfl
@[simp] theorem complete_result : (complete s).result = s.result := rfl
@[simp] theorem complete_power : (complete s).power = s.power := rfl
@[simp] theorem complete_sessWritten : (complete s).sessWritten = s.sessWritten := rfl
@[simp] theorem complete_sessRemaining : (complete s).sessRemaining = s.sessRemaining := rfl
@[simp] theorem complete_faultAddr : (complete s).faultAddr = s.faultAddr := rfl
@[simp] theorem complete_seq : (complete s).seq = none := rfl
@[simp] theorem complete_lOp : (complete s).lOp = s.lOp := rfl
@[simp] theorem complete_lZf : (complete s).lZf = s.lZf := rfl
@[simp] theorem complete_lData : (complete s).lData = s.lData := rfl
@[simp] theorem complete_lAddr : (complete s).lAddr = s.lAddr := rfl
@[simp] theorem complete_lLen : (complete s).lLen = s.lLen := rfl
@[simp] theorem complete_trace : (complete s).trace = s.trace := rfl
@[simp] theorem complete_build : (complete s).build = s.build := rfl
@[simp] theorem complete_mem : (complete s).mem = s.mem := rfl
@[simp] theorem complete_inputs : (complete s).inputs = s.inputs := rfl
@[simp] theorem complete_devIn : (complete s).devIn = s.devIn := rfl
@[simp] theorem complete_rndIn : (complete s).rndIn = s.rndIn := rfl
@[simp] theorem complete_devDraws : (complete s).devDraws = s.devDraws := rfl
@[simp] theorem complete_rndDraws : (complete s).rndDraws = s.rndDraws := rfl
@[simp] theorem complete_delayReturns : (complete s).delayReturns = s.delayReturns := rfl
@[simp] theorem complete_busData : (complete s).busData = s.busData := rfl

end

section
variable (e : Event) (s : State)

@[simp] theorem emit_busy : (emit e s).busy = s.busy := rfl
@[simp] theorem emit_fault : (emit e s).fault = s.fault := rfl
@[simp] theorem emit_phase : (emit e s).phase = s.phase := rfl
@[simp] theorem emit_err : (emit e s).err = s.err := rfl
@[simp] theorem emit_lastDev : (emit e s).lastDev = s.lastDev := rfl
@[simp] theorem emit_argData : (emit e s).argData = s.argData := rfl
@[simp] theorem emit_argAddr : (emit e s).argAddr = s.argAddr := rfl
@[simp] theorem emit_argLen : (emit e s).argLen = s.argLen := rfl
@[simp] theorem emit_result : (emit e s).result = s.result := rfl
@[simp] theorem emit_power : (emit e s).power = s.power := rfl
@[simp] theorem emit_sessWritten : (emit e s).sessWritten = s.sessWritten := rfl
@[simp] theorem emit_sessRemaining : (emit e s).sessRemaining = s.sessRemaining := rfl
@[simp] theorem emit_faultAddr : (emit e s).faultAddr = s.faultAddr := rfl
@[simp] theorem emit_seq : (emit e s).seq = s.seq := rfl
@[simp] theorem emit_lOp : (emit e s).lOp = s.lOp := rfl
@[simp] theorem emit_lZf : (emit e s).lZf = s.lZf := rfl
@[simp] theorem emit_lData : (emit e s).lData = s.lData := rfl
@[simp] theorem emit_lAddr : (emit e s).lAddr = s.lAddr := rfl
@[simp] theorem emit_lLen : (emit e s).lLen = s.lLen := rfl
@[simp] theorem emit_trace : (emit e s).trace = s.trace ++ [e] := rfl
@[simp] theorem emit_build : (emit e s).build = s.build := rfl
@[simp] theorem emit_mem : (emit e s).mem = s.mem := rfl
@[simp] theorem emit_inputs : (emit e s).inputs = s.inputs := rfl
@[simp] theorem emit_devIn : (emit e s).devIn = s.devIn := rfl
@[simp] theorem emit_rndIn : (emit e s).rndIn = s.rndIn := rfl
@[simp] theorem emit_devDraws : (emit e s).devDraws = s.devDraws := rfl
@[simp] theorem emit_rndDraws : (emit e s).rndDraws = s.rndDraws := rfl
@[simp] theorem emit_delayReturns : (emit e s).delayReturns = s.delayReturns := rfl
@[simp] theorem emit_busData : (emit e s).busData = s.busData := rfl

end

section
variable (c : Byte) (s : State)

@[simp] theorem strobe_busy : (strobe c s).busy = s.busy := rfl
@[simp] theorem strobe_fault : (strobe c s).fault = s.fault := rfl
@[simp] theorem strobe_phase : (strobe c s).phase = s.phase := rfl
@[simp] theorem strobe_err : (strobe c s).err = s.err := rfl
@[simp] theorem strobe_lastDev : (strobe c s).lastDev = s.nextStatus := rfl
@[simp] theorem strobe_argData : (strobe c s).argData = s.argData := rfl
@[simp] theorem strobe_argAddr : (strobe c s).argAddr = s.argAddr := rfl
@[simp] theorem strobe_argLen : (strobe c s).argLen = s.argLen := rfl
@[simp] theorem strobe_result : (strobe c s).result = s.result := rfl
@[simp] theorem strobe_power : (strobe c s).power = s.power := rfl
@[simp] theorem strobe_sessWritten : (strobe c s).sessWritten = s.sessWritten := rfl
@[simp] theorem strobe_sessRemaining : (strobe c s).sessRemaining = s.sessRemaining := rfl
@[simp] theorem strobe_faultAddr : (strobe c s).faultAddr = s.faultAddr := rfl
@[simp] theorem strobe_seq : (strobe c s).seq = s.seq := rfl
@[simp] theorem strobe_lOp : (strobe c s).lOp = s.lOp := rfl
@[simp] theorem strobe_lZf : (strobe c s).lZf = s.lZf := rfl
@[simp] theorem strobe_lData : (strobe c s).lData = s.lData := rfl
@[simp] theorem strobe_lAddr : (strobe c s).lAddr = s.lAddr := rfl
@[simp] theorem strobe_lLen : (strobe c s).lLen = s.lLen := rfl
@[simp] theorem strobe_trace : (strobe c s).trace = s.trace ++ [.strobe c s.nextStatus] := rfl
@[simp] theorem strobe_build : (strobe c s).build = s.build := rfl
@[simp] theorem strobe_mem : (strobe c s).mem = s.mem := rfl
@[simp] theorem strobe_inputs : (strobe c s).inputs = s.inputs := rfl
@[simp] theorem strobe_devIn : (strobe c s).devIn = s.devIn.tail := rfl
@[simp] theorem strobe_rndIn : (strobe c s).rndIn = s.rndIn := rfl
@[simp] theorem strobe_devDraws : (strobe c s).devDraws = (if s.devIn.isEmpty then s.devDraws + 1 else s.devDraws) := rfl
@[simp] theorem strobe_rndDraws : (strobe c s).rndDraws = s.rndDraws := rfl
@[simp] theorem strobe_delayReturns : (strobe c s).delayReturns = s.delayReturns := rfl
@[simp] theorem strobe_busData : (strobe c s).busData = s.busData := rfl

end

section
variable (lo hi : Nat) (s : State)

@[simp] theorem randomEvent_busy : (randomEvent lo hi s).busy = s.busy := rfl
@[simp] theorem randomEvent_fault : (randomEvent lo hi s).fault = s.fault := rfl
@[simp] theorem randomEvent_phase : (randomEvent lo hi s).phase = s.phase := rfl
@[simp] theorem randomEvent_err : (randomEvent lo hi s).err = s.err := rfl
@[simp] theorem randomEvent_lastDev : (randomEvent lo hi s).lastDev = s.lastDev := rfl
@[simp] theorem randomEvent_argData : (randomEvent lo hi s).argData = s.argData := rfl
@[simp] theorem randomEvent_argAddr : (randomEvent lo hi s).argAddr = s.argAddr := rfl
@[simp] theorem randomEvent_argLen : (randomEvent lo hi s).argLen = s.argLen := rfl
@[simp] theorem randomEvent_result : (randomEvent lo hi s).result = s.result := rfl
@[simp] theorem randomEvent_power : (randomEvent lo hi s).power = s.power := rfl
@[simp] theorem randomEvent_sessWritten : (randomEvent lo hi s).sessWritten = s.sessWritten := rfl
@[simp] theorem randomEvent_sessRemaining : (randomEvent lo hi s).sessRemaining = s.sessRemaining := rfl
@[simp] theorem randomEvent_faultAddr : (randomEvent lo hi s).faultAddr = s.faultAddr := rfl
@[simp] theorem randomEvent_seq : (randomEvent lo hi s).seq = s.seq := rfl
@[simp] theorem randomEvent_lOp : (randomEvent lo hi s).lOp = s.lOp := rfl
@[simp] theorem randomEvent_lZf : (randomEvent lo hi s).lZf = s.lZf := rfl
@[simp] theorem randomEvent_lData : (randomEvent lo hi s).lData = s.lData := rfl
@[simp] theorem randomEvent_lAddr : (randomEvent lo hi s).lAddr = s.lAddr := rfl
@[simp] theorem randomEvent_lLen : (randomEvent lo hi s).lLen = s.lLen := rfl
@[simp] theorem randomEvent_trace : (randomEvent lo hi s).trace = s.trace ++ [.random lo hi (s.nextRandom lo hi)] := rfl
@[simp] theorem randomEvent_build : (randomEvent lo hi s).build = s.build := rfl
@[simp] theorem randomEvent_mem : (randomEvent lo hi s).mem = s.mem := rfl
@[simp] theorem randomEvent_inputs : (randomEvent lo hi s).inputs = s.inputs := rfl
@[simp] theorem randomEvent_devIn : (randomEvent lo hi s).devIn = s.devIn := rfl
@[simp] theorem randomEvent_rndIn : (randomEvent lo hi s).rndIn = s.rndIn.tail := rfl
@[simp] theorem randomEvent_devDraws : (randomEvent lo hi s).devDraws = s.devDraws := rfl
@[simp] theorem randomEvent_rndDraws : (randomEvent lo hi s).rndDraws = (if s.rndIn.isEmpty then s.rndDraws + 1 else s.rndDraws) := rfl
@[simp] theorem randomEvent_delayReturns : (randomEvent lo hi s).delayReturns = s.delayReturns := rfl
@[simp] theorem randomEvent_busData : (randomEvent lo hi s).busData = s.busData := rfl

end

section
variable (n : Nat) (bs : List Byte) (s : State)

@[simp] theorem writeBuf_busy : (writeBuf n bs s).busy = s.busy := rfl
@[simp] theorem writeBuf_fault : (writeBuf n bs s).fault = s.fault := rfl
@[simp] theorem writeBuf_phase : (writeBuf n bs s).phase = s.phase := rfl
@[simp] theorem writeBuf_err : (writeBuf n bs s).err = s.err := rfl
@[simp] theorem writeBuf_lastDev : (writeBuf n bs s).lastDev = s.lastDev := rfl
@[simp] theorem writeBuf_argData : (writeBuf n bs s).argData = s.argData := rfl
@[simp] theorem writeBuf_argAddr : (writeBuf n bs s).argAddr = s.argAddr := rfl
@[simp] theorem writeBuf_argLen : (writeBuf n bs s).argLen = s.argLen := rfl
@[simp] theorem writeBuf_result : (writeBuf n bs s).result = s.result := rfl
@[simp] theorem writeBuf_power : (writeBuf n bs s).power = s.power := rfl
@[simp] theorem writeBuf_sessWritten : (writeBuf n bs s).sessWritten = s.lenCut (s.sessWritten.toNat + n) := rfl
@[simp] theorem writeBuf_sessRemaining : (writeBuf n bs s).sessRemaining = s.lenCut (s.sessRemaining - BitVec.ofNat 32 n).toNat := rfl
@[simp] theorem writeBuf_faultAddr : (writeBuf n bs s).faultAddr = s.faultAddr := rfl
@[simp] theorem writeBuf_seq : (writeBuf n bs s).seq = s.seq := rfl
@[simp] theorem writeBuf_lOp : (writeBuf n bs s).lOp = s.lOp := rfl
@[simp] theorem writeBuf_lZf : (writeBuf n bs s).lZf = s.lZf := rfl
@[simp] theorem writeBuf_lData : (writeBuf n bs s).lData = s.lData := rfl
@[simp] theorem writeBuf_lAddr : (writeBuf n bs s).lAddr = s.lAddr := rfl
@[simp] theorem writeBuf_lLen : (writeBuf n bs s).lLen = s.lLen := rfl
@[simp] theorem writeBuf_trace : (writeBuf n bs s).trace = s.trace ++ [.writeBuf bs] := rfl
@[simp] theorem writeBuf_build : (writeBuf n bs s).build = s.build := rfl
@[simp] theorem writeBuf_mem : (writeBuf n bs s).mem = s.mem := rfl
@[simp] theorem writeBuf_inputs : (writeBuf n bs s).inputs = s.inputs := rfl
@[simp] theorem writeBuf_devIn : (writeBuf n bs s).devIn = s.devIn := rfl
@[simp] theorem writeBuf_rndIn : (writeBuf n bs s).rndIn = s.rndIn := rfl
@[simp] theorem writeBuf_devDraws : (writeBuf n bs s).devDraws = s.devDraws := rfl
@[simp] theorem writeBuf_rndDraws : (writeBuf n bs s).rndDraws = s.rndDraws := rfl
@[simp] theorem writeBuf_delayReturns : (writeBuf n bs s).delayReturns = s.delayReturns := rfl
@[simp] theorem writeBuf_busData : (writeBuf n bs s).busData = s.busData := rfl

end

section
variable (n : Nat) (s : State)

@[simp] theorem writeZeros_busy : (writeZeros n s).busy = s.busy := rfl
@[simp] theorem writeZeros_fault : (writeZeros n s).fault = s.fault := rfl
@[simp] theorem writeZeros_phase : (writeZeros n s).phase = s.phase := rfl
@[simp] theorem writeZeros_err : (writeZeros n s).err = s.err := rfl
@[simp] theorem writeZeros_lastDev : (writeZeros n s).lastDev = s.lastDev := rfl
@[simp] theorem writeZeros_argData : (writeZeros n s).argData = s.argData := rfl
@[simp] theorem writeZeros_argAddr : (writeZeros n s).argAddr = s.argAddr := rfl
@[simp] theorem writeZeros_argLen : (writeZeros n s).argLen = s.argLen := rfl
@[simp] theorem writeZeros_result : (writeZeros n s).result = s.result := rfl
@[simp] theorem writeZeros_power : (writeZeros n s).power = s.power := rfl
@[simp] theorem writeZeros_sessWritten : (writeZeros n s).sessWritten = s.lenCut (s.sessWritten.toNat + n) := rfl
@[simp] theorem writeZeros_sessRemaining : (writeZeros n s).sessRemaining = s.lenCut (s.sessRemaining - BitVec.ofNat 32 n).toNat := rfl
@[simp] theorem writeZeros_faultAddr : (writeZeros n s).faultAddr = s.faultAddr := rfl
@[simp] theorem writeZeros_seq : (writeZeros n s).seq = s.seq := rfl
@[simp] theorem writeZeros_lOp : (writeZeros n s).lOp = s.lOp := rfl
@[simp] theorem writeZeros_lZf : (writeZeros n s).lZf = s.lZf := rfl
@[simp] theorem writeZeros_lData : (writeZeros n s).lData = s.lData := rfl
@[simp] theorem writeZeros_lAddr : (writeZeros n s).lAddr = s.lAddr := rfl
@[simp] theorem writeZeros_lLen : (writeZeros n s).lLen = s.lLen := rfl
@[simp] theorem writeZeros_trace : (writeZeros n s).trace = s.trace ++ [.writeZeros n] := rfl
@[simp] theorem writeZeros_build : (writeZeros n s).build = s.build := rfl
@[simp] theorem writeZeros_mem : (writeZeros n s).mem = s.mem := rfl
@[simp] theorem writeZeros_inputs : (writeZeros n s).inputs = s.inputs := rfl
@[simp] theorem writeZeros_devIn : (writeZeros n s).devIn = s.devIn := rfl
@[simp] theorem writeZeros_rndIn : (writeZeros n s).rndIn = s.rndIn := rfl
@[simp] theorem writeZeros_devDraws : (writeZeros n s).devDraws = s.devDraws := rfl
@[simp] theorem writeZeros_rndDraws : (writeZeros n s).rndDraws = s.rndDraws := rfl
@[simp] theorem writeZeros_delayReturns : (writeZeros n s).delayReturns = s.delayReturns := rfl
@[simp] theorem writeZeros_busData : (writeZeros n s).busData = s.busData := rfl

end

section
variable (a : Nat) (s : State)

@[simp] theorem raiseMemFault_busy : (raiseMemFault a s).busy = false := rfl
@[simp] theorem raiseMemFault_fault : (raiseMemFault a s).fault = true := rfl
@[simp] theorem raiseMemFault_phase : (raiseMemFault a s).phase = s.phase := rfl
@[simp] theorem raiseMemFault_err : (raiseMemFault a s).err = .memFault := rfl
@[simp] theorem raiseMemFault_lastDev : (raiseMemFault a s).lastDev = s.lastDev := rfl
@[simp] theorem raiseMemFault_argData : (raiseMemFault a s).argData = s.argData := rfl
@[simp] theorem raiseMemFault_argAddr : (raiseMemFault a s).argAddr = s.argAddr := rfl
@[simp] theorem raiseMemFault_argLen : (raiseMemFault a s).argLen = s.argLen := rfl
@[simp] theorem raiseMemFault_result : (raiseMemFault a s).result = s.result := rfl
@[simp] theorem raiseMemFault_power : (raiseMemFault a s).power = s.power := rfl
@[simp] theorem raiseMemFault_sessWritten : (raiseMemFault a s).sessWritten = s.sessWritten := rfl
@[simp] theorem raiseMemFault_sessRemaining : (raiseMemFault a s).sessRemaining = s.sessRemaining := rfl
@[simp] theorem raiseMemFault_faultAddr : (raiseMemFault a s).faultAddr = s.addrCut a := rfl
@[simp] theorem raiseMemFault_seq : (raiseMemFault a s).seq = none := rfl
@[simp] theorem raiseMemFault_lOp : (raiseMemFault a s).lOp = s.lOp := rfl
@[simp] theorem raiseMemFault_lZf : (raiseMemFault a s).lZf = s.lZf := rfl
@[simp] theorem raiseMemFault_lData : (raiseMemFault a s).lData = s.lData := rfl
@[simp] theorem raiseMemFault_lAddr : (raiseMemFault a s).lAddr = s.lAddr := rfl
@[simp] theorem raiseMemFault_lLen : (raiseMemFault a s).lLen = s.lLen := rfl
@[simp] theorem raiseMemFault_trace : (raiseMemFault a s).trace = s.trace := rfl
@[simp] theorem raiseMemFault_build : (raiseMemFault a s).build = s.build := rfl
@[simp] theorem raiseMemFault_mem : (raiseMemFault a s).mem = s.mem := rfl
@[simp] theorem raiseMemFault_inputs : (raiseMemFault a s).inputs = s.inputs := rfl
@[simp] theorem raiseMemFault_devIn : (raiseMemFault a s).devIn = s.devIn := rfl
@[simp] theorem raiseMemFault_rndIn : (raiseMemFault a s).rndIn = s.rndIn := rfl
@[simp] theorem raiseMemFault_devDraws : (raiseMemFault a s).devDraws = s.devDraws := rfl
@[simp] theorem raiseMemFault_rndDraws : (raiseMemFault a s).rndDraws = s.rndDraws := rfl
@[simp] theorem raiseMemFault_delayReturns : (raiseMemFault a s).delayReturns = s.delayReturns := rfl
@[simp] theorem raiseMemFault_busData : (raiseMemFault a s).busData = s.busData := rfl

end

section
variable (w : Word) (i : Instr) (s : State)

@[simp] theorem accept_busy : (accept w i s).busy = true := rfl
@[simp] theorem accept_fault : (accept w i s).fault = s.fault := rfl
@[simp] theorem accept_phase : (accept w i s).phase = s.phase := rfl
@[simp] theorem accept_err : (accept w i s).err = .none := rfl
@[simp] theorem accept_lastDev : (accept w i s).lastDev = s.lastDev := rfl
@[simp] theorem accept_argData : (accept w i s).argData = s.argData := rfl
@[simp] theorem accept_argAddr : (accept w i s).argAddr = s.argAddr := rfl
@[simp] theorem accept_argLen : (accept w i s).argLen = s.argLen := rfl
@[simp] theorem accept_result : (accept w i s).result = s.result := rfl
@[simp] theorem accept_power : (accept w i s).power = s.power := rfl
@[simp] theorem accept_sessWritten : (accept w i s).sessWritten = s.sessWritten := rfl
@[simp] theorem accept_sessRemaining : (accept w i s).sessRemaining = s.sessRemaining := rfl
@[simp] theorem accept_faultAddr : (accept w i s).faultAddr = s.faultAddr := rfl
@[simp] theorem accept_seq : (accept w i s).seq = some (firstPoint s.argLen.toNat i) := rfl
@[simp] theorem accept_lOp : (accept w i s).lOp = cmdOp w := rfl
@[simp] theorem accept_lZf : (accept w i s).lZf = cmdZf w := rfl
@[simp] theorem accept_lData : (accept w i s).lData = s.argData := rfl
@[simp] theorem accept_lAddr : (accept w i s).lAddr = s.argAddr := rfl
@[simp] theorem accept_lLen : (accept w i s).lLen = s.argLen := rfl
@[simp] theorem accept_trace : (accept w i s).trace = s.trace := rfl
@[simp] theorem accept_build : (accept w i s).build = s.build := rfl
@[simp] theorem accept_mem : (accept w i s).mem = s.mem := rfl
@[simp] theorem accept_inputs : (accept w i s).inputs = s.inputs := rfl
@[simp] theorem accept_devIn : (accept w i s).devIn = s.devIn := rfl
@[simp] theorem accept_rndIn : (accept w i s).rndIn = s.rndIn := rfl
@[simp] theorem accept_devDraws : (accept w i s).devDraws = s.devDraws := rfl
@[simp] theorem accept_rndDraws : (accept w i s).rndDraws = s.rndDraws := rfl
@[simp] theorem accept_delayReturns : (accept w i s).delayReturns = s.delayReturns := rfl
@[simp] theorem accept_busData : (accept w i s).busData = s.busData := rfl

end

section
variable (s : State)

@[simp] theorem resetEvent_busy : (resetEvent s).busy = false := rfl
@[simp] theorem resetEvent_fault : (resetEvent s).fault = false := rfl
@[simp] theorem resetEvent_phase : (resetEvent s).phase = .idle := rfl
@[simp] theorem resetEvent_err : (resetEvent s).err = .none := rfl
@[simp] theorem resetEvent_lastDev : (resetEvent s).lastDev = 0#8 := rfl
@[simp] theorem resetEvent_argData : (resetEvent s).argData = 0#8 := rfl
@[simp] theorem resetEvent_argAddr : (resetEvent s).argAddr = 0#32 := rfl
@[simp] theorem resetEvent_argLen : (resetEvent s).argLen = 0#32 := rfl
@[simp] theorem resetEvent_result : (resetEvent s).result = 0#30 := rfl
@[simp] theorem resetEvent_power : (resetEvent s).power = s.build.powerReset := rfl
@[simp] theorem resetEvent_sessWritten : (resetEvent s).sessWritten = 0#32 := rfl
@[simp] theorem resetEvent_sessRemaining : (resetEvent s).sessRemaining = 0#32 := rfl
@[simp] theorem resetEvent_faultAddr : (resetEvent s).faultAddr = 0#32 := rfl
@[simp] theorem resetEvent_seq : (resetEvent s).seq = none := rfl
@[simp] theorem resetEvent_lOp : (resetEvent s).lOp = 0#4 := rfl
@[simp] theorem resetEvent_lZf : (resetEvent s).lZf = false := rfl
@[simp] theorem resetEvent_lData : (resetEvent s).lData = 0#8 := rfl
@[simp] theorem resetEvent_lAddr : (resetEvent s).lAddr = 0#32 := rfl
@[simp] theorem resetEvent_lLen : (resetEvent s).lLen = 0#32 := rfl
@[simp] theorem resetEvent_trace : (resetEvent s).trace = [] := rfl
@[simp] theorem resetEvent_build : (resetEvent s).build = s.build := rfl
@[simp] theorem resetEvent_mem : (resetEvent s).mem = s.mem := rfl
@[simp] theorem resetEvent_inputs : (resetEvent s).inputs = s.inputs := rfl
@[simp] theorem resetEvent_devIn : (resetEvent s).devIn = s.devIn := rfl
@[simp] theorem resetEvent_rndIn : (resetEvent s).rndIn = s.rndIn := rfl
@[simp] theorem resetEvent_devDraws : (resetEvent s).devDraws = s.devDraws := rfl
@[simp] theorem resetEvent_rndDraws : (resetEvent s).rndDraws = s.rndDraws := rfl
@[simp] theorem resetEvent_delayReturns : (resetEvent s).delayReturns = s.delayReturns := rfl
@[simp] theorem resetEvent_busData : (resetEvent s).busData = s.busData := rfl

end

section
variable (s : State)

@[simp] theorem waitPass_busy : (waitPass s).busy = s.busy := rfl
@[simp] theorem waitPass_fault : (waitPass s).fault = s.fault := rfl
@[simp] theorem waitPass_phase : (waitPass s).phase = s.phase := rfl
@[simp] theorem waitPass_err : (waitPass s).err = s.err := rfl
@[simp] theorem waitPass_lastDev : (waitPass s).lastDev = s.lastDev := rfl
@[simp] theorem waitPass_argData : (waitPass s).argData = s.argData := rfl
@[simp] theorem waitPass_argAddr : (waitPass s).argAddr = s.argAddr := rfl
@[simp] theorem waitPass_argLen : (waitPass s).argLen = s.argLen := rfl
@[simp] theorem waitPass_result : (waitPass s).result = s.result := rfl
@[simp] theorem waitPass_power : (waitPass s).power = s.power := rfl
@[simp] theorem waitPass_sessWritten : (waitPass s).sessWritten = s.sessWritten := rfl
@[simp] theorem waitPass_sessRemaining : (waitPass s).sessRemaining = s.sessRemaining := rfl
@[simp] theorem waitPass_faultAddr : (waitPass s).faultAddr = s.faultAddr := rfl
@[simp] theorem waitPass_seq : (waitPass s).seq = s.seq := rfl
@[simp] theorem waitPass_lOp : (waitPass s).lOp = s.lOp := rfl
@[simp] theorem waitPass_lZf : (waitPass s).lZf = s.lZf := rfl
@[simp] theorem waitPass_lData : (waitPass s).lData = s.lData := rfl
@[simp] theorem waitPass_lAddr : (waitPass s).lAddr = s.lAddr := rfl
@[simp] theorem waitPass_lLen : (waitPass s).lLen = s.lLen := rfl
@[simp] theorem waitPass_trace : (waitPass s).trace = s.trace := rfl
@[simp] theorem waitPass_build : (waitPass s).build = s.build := rfl
@[simp] theorem waitPass_mem : (waitPass s).mem = s.mem := rfl
@[simp] theorem waitPass_inputs : (waitPass s).inputs = (if s.busy then .turn :: .wait :: s.inputs else s.inputs) := rfl
@[simp] theorem waitPass_devIn : (waitPass s).devIn = s.devIn := rfl
@[simp] theorem waitPass_rndIn : (waitPass s).rndIn = s.rndIn := rfl
@[simp] theorem waitPass_devDraws : (waitPass s).devDraws = s.devDraws := rfl
@[simp] theorem waitPass_rndDraws : (waitPass s).rndDraws = s.rndDraws := rfl
@[simp] theorem waitPass_delayReturns : (waitPass s).delayReturns = s.delayReturns := rfl
@[simp] theorem waitPass_busData : (waitPass s).busData = s.statusWord := rfl

end

section
variable (r : Bool) (s : State)

@[simp] theorem setTimer_busy : (setTimer r s).busy = s.busy := rfl
@[simp] theorem setTimer_fault : (setTimer r s).fault = s.fault := rfl
@[simp] theorem setTimer_phase : (setTimer r s).phase = s.phase := rfl
@[simp] theorem setTimer_err : (setTimer r s).err = s.err := rfl
@[simp] theorem setTimer_lastDev : (setTimer r s).lastDev = s.lastDev := rfl
@[simp] theorem setTimer_argData : (setTimer r s).argData = s.argData := rfl
@[simp] theorem setTimer_argAddr : (setTimer r s).argAddr = s.argAddr := rfl
@[simp] theorem setTimer_argLen : (setTimer r s).argLen = s.argLen := rfl
@[simp] theorem setTimer_result : (setTimer r s).result = s.result := rfl
@[simp] theorem setTimer_power : (setTimer r s).power = s.power := rfl
@[simp] theorem setTimer_sessWritten : (setTimer r s).sessWritten = s.sessWritten := rfl
@[simp] theorem setTimer_sessRemaining : (setTimer r s).sessRemaining = s.sessRemaining := rfl
@[simp] theorem setTimer_faultAddr : (setTimer r s).faultAddr = s.faultAddr := rfl
@[simp] theorem setTimer_seq : (setTimer r s).seq = s.seq := rfl
@[simp] theorem setTimer_lOp : (setTimer r s).lOp = s.lOp := rfl
@[simp] theorem setTimer_lZf : (setTimer r s).lZf = s.lZf := rfl
@[simp] theorem setTimer_lData : (setTimer r s).lData = s.lData := rfl
@[simp] theorem setTimer_lAddr : (setTimer r s).lAddr = s.lAddr := rfl
@[simp] theorem setTimer_lLen : (setTimer r s).lLen = s.lLen := rfl
@[simp] theorem setTimer_trace : (setTimer r s).trace = s.trace := rfl
@[simp] theorem setTimer_build : (setTimer r s).build = s.build := rfl
@[simp] theorem setTimer_mem : (setTimer r s).mem = s.mem := rfl
@[simp] theorem setTimer_inputs : (setTimer r s).inputs = s.inputs := rfl
@[simp] theorem setTimer_devIn : (setTimer r s).devIn = s.devIn := rfl
@[simp] theorem setTimer_rndIn : (setTimer r s).rndIn = s.rndIn := rfl
@[simp] theorem setTimer_devDraws : (setTimer r s).devDraws = s.devDraws := rfl
@[simp] theorem setTimer_rndDraws : (setTimer r s).rndDraws = s.rndDraws := rfl
@[simp] theorem setTimer_delayReturns : (setTimer r s).delayReturns = r := rfl
@[simp] theorem setTimer_busData : (setTimer r s).busData = s.busData := rfl

end

end Sys2Proof.Machine
end

