-- ==== Sys2Proof/Laws/Exec.lean ====
section
/-! SUPPORT. What the sequencer can do, said once: the inversion lemmas of the shared operations, of the procedures, of exec and of step. Later proofs cite them instead of unfolding the meanings. -/

namespace Sys2Proof.Machine

/-! ### Shared operations -/

/-- A Delay either happens and is followed by what its step does, or leaves the state as it is (R116). -/
theorem delayThen_cases (ms : Nat) (after : State → State) (s : State) :
    (s.delayReturns = true ∧ delayThen ms after s = after (emit (.delay ms) s)) ∨
    (s.delayReturns = false ∧ delayThen ms after s = s) := by
  unfold delayThen
  cases s.delayReturns <;> simp

/-- A MemRead is admitted and reads the byte, or raises MemFault (R37, R97). -/
theorem memReadThen_cases (a : Nat) (after : Byte → State → State) (s : State) :
    (admits s.build a = true ∧
      memReadThen a after s = after (Memory.read s.mem a) (emit (.memRead a (Memory.read s.mem a)) s)) ∨
    (admits s.build a = false ∧ memReadThen a after s = raiseMemFault a s) := by
  unfold memReadThen
  cases admits s.build a <;> simp

/-- A step of write_chunk is the next MemRead, a MemFault, or the write event (R75). -/
theorem chunkStep_cases (src : Src) (off n : Nat) (buf : List Byte) (onRead : List Byte → State → State)
    (onWrite : State → State) (s : State) :
    (src = .zero ∧ chunkStep src off n buf onRead onWrite s = onWrite (writeZeros n s)) ∨
    (∃ t, src = .rom t ∧ chunkStep src off n buf onRead onWrite s = onWrite (writeBuf n (romSlice s.build t off n) s)) ∨
    (∃ base, src = .mem base ∧ n ≤ buf.length ∧ chunkStep src off n buf onRead onWrite s = onWrite (writeBuf n buf s)) ∨
    (∃ base, src = .mem base ∧ buf.length < n ∧ admits s.build (base + off + buf.length) = false ∧
      chunkStep src off n buf onRead onWrite s = raiseMemFault (base + off + buf.length) s) ∨
    (∃ base v, src = .mem base ∧ buf.length < n ∧ admits s.build (base + off + buf.length) = true ∧
      v = Memory.read s.mem (base + off + buf.length) ∧
      chunkStep src off n buf onRead onWrite s = onRead (buf ++ [v]) (emit (.memRead (base + off + buf.length) v) s)) := by
  cases src with
  | zero => exact .inl ⟨rfl, rfl⟩
  | rom t => exact .inr (.inl ⟨t, rfl, rfl⟩)
  | mem base =>
    by_cases h : buf.length < n
    · obtain ⟨ha, he⟩ | ⟨ha, he⟩ :=
        memReadThen_cases (base + off + buf.length) (fun v s' => onRead (buf ++ [v]) s') s
      · exact .inr (.inr (.inr (.inr ⟨base, _, rfl, h, ha, rfl, by simpa [chunkStep, h] using he⟩)))
      · exact .inr (.inr (.inr (.inl ⟨base, rfl, h, ha, by simpa [chunkStep, h] using he⟩)))
    · exact .inr (.inr (.inl ⟨base, rfl, Nat.le_of_not_lt h, by simp [chunkStep, h]⟩))

/-! ### The command SEQ names -/

/-- One step of the command SEQ names, at its point: the meanings of all ten commands as one total function. -/
def microStep : Running → State → State
  | .encode, s => complete (setResult ((fec s.opData).setWidth 30) s)
  | .frame, s => complete (setResult (frameWord s.opData) s)
  | .setPwr, s => complete (setResult (s.powerByte.setWidth 30) (setPower s.powerByte s))
  | .txByte p, s => frameStep s.opData .txByte complete p s
  | .tx p, s => txStep p s
  | .rawTx p, s => rawStep p s
  | .beginTx p, s => beginStep (.mem s.opBase) s.opLength .beginTx complete p s
  | .cont p, s => contStep (.mem s.opBase) .cont p s
  | .contZ p, s => contStep .zero .contZ p s
  | .endTx p, s => endStep .endTx complete p s

/-- Where SEQ is in command `i`, exec answers its micro step. -/
theorem exec_of_seq {s : State} {q : Running} (h : s.seq = some q) : exec q.command s = .next (microStep q s) := by
  cases q <;> simp [Running.command, exec, microStep, h, execEncode, execFrame, execSetPwr, execTxByte, execTx, execRawTx,
    execBegin, execCont, execContZ, execEnd]

/-- Where exec answers a next state, SEQ is in the command and the state is its micro step. -/
theorem exec_next {i : Instr} {s t : State} (h : exec i s = .next t) :
    ∃ q, s.seq = some q ∧ q.command = i ∧ t = microStep q s := by
  have key : ∀ q, s.seq = some q → q.command = i → ∃ q, s.seq = some q ∧ q.command = i ∧ t = microStep q s := by
    intro q hq hc
    refine ⟨q, hq, hc, ?_⟩
    have := exec_of_seq hq
    rw [hc, h] at this
    simpa using this
  cases hs : s.seq with
  | none =>
    cases i <;> simp [exec, execEncode, execFrame, execSetPwr, execTxByte, execTx, execRawTx, execBegin, execCont,
      execContZ, execEnd, hs] at h
  | some q =>
    by_cases hc : q.command = i
    · exact ⟨q, rfl, hc, by simpa [hs, hc] using key q hs hc⟩
    · cases i <;> cases q <;> simp_all [exec, execEncode, execFrame, execSetPwr, execTxByte, execTx, execRawTx,
        execBegin, execCont, execContZ, execEnd, Running.command]

/-- exec never refuses. -/
theorem exec_ne_refused (i : Instr) (s : State) (r : Refusal) : exec i s ≠ .refused r := by
  cases i <;> simp only [exec, execEncode, execFrame, execSetPwr, execTxByte, execTx, execRawTx, execBegin, execCont,
    execContZ, execEnd] <;> split <;> simp

/-- The sequencer's turn, which never faults. -/
theorem runSequencer_eq (s : State) :
    runSequencer s = .next (match s.seq with | some q => microStep q s | none => s) := by
  unfold runSequencer
  cases h : s.seq with
  | none => rfl
  | some q => simp [exec_of_seq h]

/-- Where a running command's answer is to be written with the command's own name. -/
theorem exec_eq_next_iff {i : Instr} {s t : State} :
    exec i s = .next t ↔ ∃ q, s.seq = some q ∧ q.command = i ∧ t = microStep q s :=
  ⟨exec_next, fun ⟨q, hq, hc, ht⟩ => by rw [← hc, exec_of_seq hq, ht]⟩

/-! ### Step -/

/-- With no input pending, a step is the sequencer's turn. -/
theorem step_of_no_input {s : State} (h : s.inputs = []) : step s = runSequencer s := by
  simp [step, advance, h]

/-- With inputs pending, a step takes the oldest. -/
theorem step_of_input {s : State} {a : Input} {rest : List Input} (h : s.inputs = a :: rest) :
    step s = takeInput { s with inputs := rest } a := by
  simp [step, advance, h]

/-- Everything that one step answering a next state can be. -/
theorem step_cases {s t : State} (h : step s = .next t) :
    (s.inputs = [] ∧ runSequencer s = .next t) ∨
    (∃ a rest, s.inputs = a :: rest ∧ takeInput { s with inputs := rest } a = .next t) := by
  cases hi : s.inputs with
  | nil => exact .inl ⟨rfl, step_of_no_input hi ▸ h⟩
  | cons a rest => exact .inr ⟨a, rest, rfl, step_of_input hi ▸ h⟩

/-! ### The shape of a step: at most one event, then silent updates -/

/-- Updates of SEQ, PHASE, the session counters and BUSY, in any number: what the registers written "with" an event
make of a state (42_fifo_stream.md R73). -/
inductive SilentUpd (s : State) : State → Prop where
  | refl : SilentUpd s s
  | goto {t} (q : Running) : SilentUpd s t → SilentUpd s (goto q t)
  | setPhase {t} (p : Phase) : SilentUpd s t → SilentUpd s (setPhase p t)
  | openCount {t} (n : Nat) : SilentUpd s t → SilentUpd s (openCount n t)
  | complete {t} : SilentUpd s t → SilentUpd s (complete t)

theorem SilentUpd.trans {s t u : State} (h : SilentUpd s t) (k : SilentUpd t u) : SilentUpd s u := by
  induction k with
  | refl => exact h
  | goto q _ ih => exact ih.goto q
  | setPhase p _ ih => exact ih.setPhase p
  | openCount n _ ih => exact ih.openCount n
  | complete _ ih => exact ih.complete

/-- One event of the sequencer (00_scope.md R5): before, the event, after. -/
inductive EventUpd (s : State) : Event → State → Prop where
  | strobe (c : Byte) : EventUpd s (.strobe c s.nextStatus) (strobe c s)
  | delay (ms : Nat) : s.delayReturns = true → EventUpd s (.delay ms) (emit (.delay ms) s)
  | random (lo hi : Nat) : EventUpd s (.random lo hi (s.nextRandom lo hi)) (randomEvent lo hi s)
  | memRead (a : Nat) : admits s.build a = true →
      EventUpd s (.memRead a (Memory.read s.mem a)) (emit (.memRead a (Memory.read s.mem a)) s)
  | writeBuf (n : Nat) (bs : List Byte) : EventUpd s (.writeBuf bs) (writeBuf n bs s)
  | writeZeros (n : Nat) : EventUpd s (.writeZeros n) (writeZeros n s)

/-- What one step of a stream or pacer procedure can be: a Delay that hangs, a memory fault, silent updates, or one event
followed by silent updates. -/
inductive StepShape (s : State) : State → Prop where
  | hang : s.delayReturns = false → StepShape s s
  | fault (a : Nat) : admits s.build a = false → StepShape s (raiseMemFault a s)
  | silent {t} : SilentUpd s t → StepShape s t
  | event {e u t} : EventUpd s e u → SilentUpd u t → StepShape s t

/-- A function that makes silent updates only. -/
def Silent (f : State → State) : Prop := ∀ s, SilentUpd s (f s)

theorem silent_goto (q : Running) : Silent (goto q) := fun _ => .goto q .refl
theorem silent_complete : Silent complete := fun _ => .complete .refl

theorem silent_markFill (buf : List Byte) : Silent (markFill buf) := by
  intro s
  unfold markFill
  split
  · exact .setPhase _ .refl
  · exact .refl

theorem silent_refillOpen (restart : Bool) (rem : Nat) : Silent (refillOpen restart rem) := by
  intro s
  cases restart
  · exact .setPhase _ .refl
  · exact .setPhase _ (.openCount _ .refl)

theorem silent_txGap (i : Nat) : Silent (txGap i) := by
  intro s
  unfold txGap
  split <;> exact .goto _ .refl

theorem silent_txNext (i : Nat) : Silent (txNext i) := by
  intro s
  unfold txNext
  split
  · exact .goto _ .refl
  · exact .complete .refl

theorem shape_delayThen (ms : Nat) {after : State → State} (h : Silent after) (s : State) :
    StepShape s (delayThen ms after s) := by
  obtain ⟨hr, e⟩ | ⟨hr, e⟩ := delayThen_cases ms after s <;> rw [e]
  · exact .event (.delay ms hr) (h _)
  · exact .hang hr

theorem shape_memReadThen (a : Nat) {after : Byte → State → State} (h : ∀ v, Silent (after v)) (s : State) :
    StepShape s (memReadThen a after s) := by
  obtain ⟨ha, e⟩ | ⟨ha, e⟩ := memReadThen_cases a after s <;> rw [e]
  · exact .event (.memRead a ha) (h _ _)
  · exact .fault a ha

theorem shape_chunkStep (src : Src) (off n : Nat) (buf : List Byte) {onRead : List Byte → State → State}
    {onWrite : State → State} (hr : ∀ b, Silent (onRead b)) (hw : Silent onWrite) (s : State) :
    StepShape s (chunkStep src off n buf onRead onWrite s) := by
  obtain ⟨-, e⟩ | ⟨t, -, e⟩ | ⟨_, -, -, e⟩ | ⟨_, -, -, ha, e⟩ | ⟨_, _, -, -, ha, hv, e⟩ :=
    chunkStep_cases src off n buf onRead onWrite s <;> rw [e]
  · exact .event (.writeZeros n) (hw _)
  · exact .event (.writeBuf n _) (hw _)
  · exact .event (.writeBuf n _) (hw _)
  · exact .fault _ ha
  · subst hv
    exact .event (.memRead _ ha) (hr _ _)

theorem shape_refillStep (src : Src) (restart : Bool) (at' : RefillPoint → Running) {after : State → State}
    (h : Silent after) (p : RefillPoint) (s : State) : StepShape s (refillStep src restart at' after p s) := by
  cases p with
  | enter off rem => exact shape_delayThen _ (fun u => .goto _ (silent_refillOpen restart rem u)) s
  | delay off rem => exact shape_delayThen _ (silent_goto _) s
  | poll off rem => exact .event (.strobe _) (.goto _ .refl)
  | chunk off rem n buf =>
    simp only [refillStep]
    refine shape_chunkStep _ _ _ _ (fun b => silent_goto _) ?_ s
    split
    · exact h
    · exact silent_goto _

theorem shape_beginStep (src : Src) (len : Nat) (at' : BeginPoint → Running) {after : State → State}
    (h : Silent after) (p : BeginPoint) (s : State) : StepShape s (beginStep src len at' after p s) := by
  cases p with
  | enter => exact .event (.strobe _) (.openCount _ (.setPhase _ (.goto _ .refl)))
  | idleWait => exact .event (.strobe _) (.goto _ .refl)
  | flush => exact .event (.strobe _) (.goto _ .refl)
  | fill buf =>
    simp only [beginStep]
    exact shape_chunkStep _ _ _ _ (fun b u => .goto _ (silent_markFill _ u)) (fun u => .goto _ (silent_markFill _ u)) s
  | start =>
    simp only [beginStep]
    split
    · exact .event (.strobe _) (h _)
    · exact .event (.strobe _) (.goto _ .refl)
  | oscWait => exact .event (.strobe _) (.goto _ .refl)
  | refill p => simp only [beginStep]; exact shape_refillStep _ _ _ h p s

theorem shape_endStep (at' : EndPoint → Running) {after : State → State} (h : Silent after) (p : EndPoint) (s : State) :
    StepShape s (endStep at' after p s) := by
  cases p with
  | enter => exact .event (.strobe _) (.setPhase _ (.goto _ .refl))
  | drainWait => exact .event (.strobe _) (.goto _ .refl)
  | idle => exact .event (.strobe _) (.trans (.setPhase _ .refl) (h _))

theorem shape_frameStep (d : Byte) (at' : FramePoint → Running) {after : State → State} (h : Silent after)
    (p : FramePoint) (s : State) : StepShape s (frameStep d at' after p s) := by
  cases p with
  | first p => simp only [frameStep]; exact shape_beginStep _ _ _ (silent_goto _) p s
  | burst k p => simp only [frameStep]; exact shape_refillStep _ _ _ (silent_goto _) p s
  | last p => simp only [frameStep]; exact shape_endStep _ h p s

theorem shape_txStep (p : TxPoint) (s : State) : StepShape s (txStep p s) := by
  cases p with
  | start =>
    simp only [txStep, txStart]
    split
    · exact .event (.random _ _) (.goto _ .refl)
    · split
      · exact shape_memReadThen _ (fun _ => silent_goto _) s
      · exact .silent (.complete .refl)
  | leadDelay r0 => exact shape_delayThen _ (silent_txNext _) s
  | read i => exact shape_memReadThen _ (fun _ => silent_goto _) s
  | frame i d p => simp only [txStep]; exact shape_frameStep _ _ (silent_txGap i) p s
  | gapDraw i => exact .event (.random _ _) (.goto _ .refl)
  | gapDelay i ms => exact shape_delayThen _ (silent_txNext _) s

theorem shape_rawStep (p : RawPoint) (s : State) : StepShape s (rawStep p s) := by
  cases p with
  | stream p => simp only [rawStep]; exact shape_beginStep _ _ _ (silent_goto _) p s
  | close p => simp only [rawStep]; exact shape_endStep _ silent_complete p s

theorem shape_contStep (src : Src) (at' : RefillPoint → Running) (p : RefillPoint) (s : State) :
    StepShape s (contStep src at' p s) := by
  unfold contStep
  split
  · exact .silent (.complete (.openCount _ .refl))
  · exact shape_refillStep _ _ _ silent_complete p s

/-- A command that writes RESULT in its one silent step. -/
def Running.writesResult : Running → Bool
  | .encode => true
  | .frame => true
  | .setPwr => true
  | .txByte _ => false
  | .tx _ => false
  | .rawTx _ => false
  | .beginTx _ => false
  | .cont _ => false
  | .contZ _ => false
  | .endTx _ => false

/-- The shape of every micro step but those of ENCODE, FRAME and SETPWR. -/
theorem shape_microStep {q : Running} (hq : q.writesResult = false) (s : State) : StepShape s (microStep q s) := by
  cases q with
  | encode => cases hq
  | frame => cases hq
  | setPwr => cases hq
  | txByte p => exact shape_frameStep _ _ silent_complete p s
  | tx p => exact shape_txStep p s
  | rawTx p => exact shape_rawStep p s
  | beginTx p => exact shape_beginStep _ _ _ silent_complete p s
  | cont p => exact shape_contStep _ _ p s
  | contZ p => exact shape_contStep _ _ p s
  | endTx p => exact shape_endStep _ silent_complete p s

/-! ### What no such step touches -/

/-- The operand registers, the latches, RESULT, POWER, the parameters, host memory and the moves from outside are the
same in both states. -/
structure Untouched (s t : State) : Prop where
  argData      : t.argData = s.argData
  argAddr      : t.argAddr = s.argAddr
  argLen       : t.argLen = s.argLen
  result       : t.result = s.result
  power        : t.power = s.power
  lOp          : t.lOp = s.lOp
  lZf          : t.lZf = s.lZf
  lData        : t.lData = s.lData
  lAddr        : t.lAddr = s.lAddr
  lLen         : t.lLen = s.lLen
  build        : t.build = s.build
  mem          : t.mem = s.mem
  inputs       : t.inputs = s.inputs
  delayReturns : t.delayReturns = s.delayReturns
  busData      : t.busData = s.busData

theorem SilentUpd.untouched {s t : State} (h : SilentUpd s t) : Untouched s t := by
  induction h with
  | refl => constructor <;> rfl
  | goto _ _ ih => cases ih; constructor <;> assumption
  | setPhase _ _ ih => cases ih; constructor <;> assumption
  | openCount _ _ ih => cases ih; constructor <;> assumption
  | complete _ ih => cases ih; constructor <;> assumption

theorem SilentUpd.trace_eq {s t : State} (h : SilentUpd s t) : t.trace = s.trace := by
  induction h with
  | refl => rfl
  | goto _ _ ih => exact ih
  | setPhase _ _ ih => exact ih
  | openCount _ _ ih => exact ih
  | complete _ ih => exact ih

theorem EventUpd.untouched {s u : State} {e : Event} (h : EventUpd s e u) : Untouched s u := by
  cases h <;> constructor <;> rfl

theorem EventUpd.trace_eq {s u : State} {e : Event} (h : EventUpd s e u) : u.trace = s.trace ++ [e] := by
  cases h <;> rfl

theorem Untouched.trans {s t u : State} (h : Untouched s t) (k : Untouched t u) : Untouched s u := by
  cases h; cases k; constructor <;> simp_all

theorem StepShape.untouched {s t : State} (h : StepShape s t) : Untouched s t := by
  cases h with
  | hang => constructor <;> rfl
  | fault => constructor <;> rfl
  | silent h => exact h.untouched
  | event h k => exact h.untouched.trans k.untouched

end Sys2Proof.Machine
end

