-- ==== Sys2Proof/Laws/Memory.lean ====
section
/-! SUPPORT. Every operation on host memory keeps its canonical form, and the memory at reset has it. -/

namespace Sys2Proof.Machine

/-- A weaker bound on the first address is enough. -/
theorem Memory.wfFrom_mono {lo lo' : Nat} (h : lo ≤ lo') :
    ∀ {m : List Host.Cell}, Memory.wfFrom lo' m = true → Memory.wfFrom lo m = true
  | [], _ => rfl
  | (a, v) :: cs, hm => by
    simp only [Memory.wfFrom, Bool.and_eq_true, decide_eq_true_eq] at hm ⊢
    exact ⟨⟨h.trans hm.1.1, hm.1.2⟩, hm.2⟩

/-- A write at or above the bound keeps the form from that bound on. -/
theorem Memory.write_wfFrom {lo a : Nat} (v : Byte) (ha : lo ≤ a) :
    ∀ {m : List Host.Cell}, Memory.wfFrom lo m = true → Memory.wfFrom lo (Memory.write m a v) = true
  | [], _ => by
    by_cases hv : v = Memory.unlisted <;> simp [Memory.write, Memory.wfFrom, hv, ha]
  | (b, u) :: cs, hm => by
    simp only [Memory.wfFrom, Bool.and_eq_true, decide_eq_true_eq, bne_iff_ne] at hm
    obtain ⟨⟨hb, hu⟩, hcs⟩ := hm
    unfold Memory.write
    split
    · split <;> simp_all [Memory.wfFrom]
    · split
      · subst a
        split
        · exact Memory.wfFrom_mono (by omega) hcs
        · simp_all [Memory.wfFrom]
      · have := Memory.write_wfFrom v (lo := b + 1) (a := a) (by omega) hcs
        simp_all [Memory.wfFrom]

/-- The one operation that changes host memory keeps its canonical form. -/
theorem Memory.write_wf (m : List Host.Cell) (a : Nat) (v : Byte) (h : Memory.wf m = true) :
    Memory.wf (Memory.write m a v) = true :=
  Memory.write_wfFrom v (Nat.zero_le a) h

/-- Host memory right after reset is canonical. -/
theorem State.reset_mem_wf : Memory.wf State.reset.mem = true := rfl

end Sys2Proof.Machine
end

