-- ==== Sys2Proof/Laws/PerInstr.lean ====
section
/-! SUPPORT. The statements made per instruction: one family, one lemma per constructor of Instr. -/

namespace Sys2Proof.Laws.Encoding

/-- The command is well formed, its word is legal (30_encoding.md R51) and decodes to it, and has no reserved bit (R48). -/
def Statement (i : Instr) : Prop :=
  i.wf = true ∧ legalWord (encodeWord i) = true ∧ decodeWord (encodeWord i) = .ok i ∧ cmdReserved (encodeWord i) = 0#27

theorem encode : Statement .encode := ⟨rfl, rfl, rfl, rfl⟩
theorem frame : Statement .frame := ⟨rfl, rfl, rfl, rfl⟩
theorem txByte : Statement .txByte := ⟨rfl, rfl, rfl, rfl⟩
theorem tx : Statement .tx := ⟨rfl, rfl, rfl, rfl⟩
theorem rawTx : Statement .rawTx := ⟨rfl, rfl, rfl, rfl⟩
theorem beginTx : Statement .beginTx := ⟨rfl, rfl, rfl, rfl⟩
theorem cont : Statement .cont := ⟨rfl, rfl, rfl, rfl⟩
theorem contZ : Statement .contZ := ⟨rfl, rfl, rfl, rfl⟩
theorem endTx : Statement .endTx := ⟨rfl, rfl, rfl, rfl⟩
theorem setPwr : Statement .setPwr := ⟨rfl, rfl, rfl, rfl⟩

end Sys2Proof.Laws.Encoding
end

