-- ==== Sys2Proof/Laws/Places.lean ====
section
/-! SUPPORT. Where a procedure stands in a command, a step of the command is a step of the procedure: one lemma for begin, refill and end, so that what is proved of a procedure's step holds in every command that runs it. -/

namespace Sys2Proof.Machine

/-- A point of begin, in whichever command, takes a step of begin. -/
theorem BeginPlace.microStep_eq {at' : BeginPoint → Running} (h : BeginPlace at') (s : State) :
    ∃ src len after, Silent after ∧ src ≠ .zero ∧ ∀ p, microStep (at' p) s = beginStep src len at' after p s := by
  cases h with
  | beginTx => exact ⟨_, _, _, silent_complete, by simp, fun _ => rfl⟩
  | rawTx => exact ⟨_, _, _, silent_goto _, by simp, fun _ => rfl⟩
  | txByte => exact ⟨_, _, _, silent_goto _, by simp, fun _ => rfl⟩
  | tx i d => exact ⟨_, _, _, silent_goto _, by simp, fun _ => rfl⟩

/-- A point of end, in whichever command, takes a step of end. -/
theorem EndPlace.microStep_eq {at' : EndPoint → Running} (h : EndPlace at') (s : State) :
    ∃ after, Silent after ∧ ∀ p, microStep (at' p) s = endStep at' after p s := by
  cases h with
  | endTx => exact ⟨_, silent_complete, fun _ => rfl⟩
  | rawTx => exact ⟨_, silent_complete, fun _ => rfl⟩
  | txByte => exact ⟨_, silent_complete, fun _ => rfl⟩
  | tx i d => exact ⟨_, silent_txGap i, fun _ => rfl⟩

/-- Only the refill of CONTZ is in CONTZ. -/
theorem BeginPlace.command_ne {at' : BeginPoint → Running} (h : BeginPlace at') (p : BeginPoint) :
    (at' p).command ≠ .contZ := by
  cases h <;> simp [Running.command]

/-- A point of refill, in whichever command, takes a step of refill, but for the silent step of a CONT or CONTZ of length 0; its
source is ZERO in CONTZ alone. -/
theorem RefillPlace.microStep_eq {restart : Bool} {at' : RefillPoint → Running} (h : RefillPlace restart at') (s : State) :
    ∃ src after, Silent after ∧ (∀ p, (at' p).command = .contZ ↔ src = .zero) ∧
      ∀ p, at' p ≠ .cont (.enter 0 0) → at' p ≠ .contZ (.enter 0 0) →
        microStep (at' p) s = refillStep src restart at' after p s := by
  cases h with
  | cont =>
    exact ⟨.mem s.opBase, _, silent_complete, by simp [Running.command],
      fun p hp _ => if_neg fun e => hp (congrArg Running.cont e)⟩
  | contZ => exact ⟨.zero, _, silent_complete, by simp [Running.command], fun p _ hp => if_neg fun e => hp (congrArg Running.contZ e)⟩
  | txByte k => exact ⟨_, _, silent_goto _, by simp [Running.command], fun _ _ _ => rfl⟩
  | tx i d k => exact ⟨_, _, silent_goto _, by simp [Running.command], fun _ _ _ => rfl⟩
  | ofBegin h =>
    obtain ⟨src, len, after, ha, hs, e⟩ := h.microStep_eq s
    exact ⟨src, after, ha, fun p => ⟨fun hc => absurd hc (h.command_ne _), fun hc => absurd hc hs⟩, fun p _ _ => e (.refill p)⟩

/-- The remaining count a write leaves, where it fits its register. -/
theorem countWritten_remaining {n : Nat} {s : State} (h : n ≤ s.sessRemaining.toNat)
    (hw : s.sessRemaining.toNat < 2 ^ s.build.lenWidth) :
    (countWritten n s).sessRemaining.toNat = s.sessRemaining.toNat - n := by
  have hlt := s.sessRemaining.isLt
  have hsub : (2 ^ 32 - n % 2 ^ 32 + s.sessRemaining.toNat) % 2 ^ 32 = s.sessRemaining.toNat - n := by omega
  simp only [countWritten, State.lenCut, cutTo, BitVec.toNat_ofNat, BitVec.toNat_sub]
  rw [hsub, Nat.mod_eq_of_lt (a := _ - _) (by omega), Nat.mod_eq_of_lt (by omega)]

/-- The last step of a chunk writes it: the event, the counters, and then the next pass or what follows the refill. -/
theorem writesChunk_of_microStep {s : State} {at' : RefillPoint → Running} {off rem n : Nat} {buf : List Byte} {e : Event}
    {next : Option Running} (after : State → State) (hl : (eventBytes e).length = n)
    (hm : s.seq = some (at' (.chunk off rem n buf)) → microStep (at' (.chunk off rem n buf)) s =
      (if rem - n = 0 then after else goto (at' (.delay (off + n) (rem - n)))) (countWritten n (emit e s)))
    (ha : ∀ u, after u = { u with busy := u.busy && next.isSome, seq := next }) :
    WritesChunk s at' off rem n buf e next := by
  intro hq hn
  refine ⟨hl, (countWritten n s).sessWritten, (countWritten n s).sessRemaining, ?_, by simp [countWritten, State.lenCut, cutTo],
    countWritten_remaining⟩
  rw [exec_of_seq hq, hm hq]
  by_cases h : rem - n = 0
  · simp [h, show ¬ n < rem by omega, ha, countWritten, emit, State.lenCut]
  · simp [h, show n < rem by omega, countWritten, emit, State.lenCut, goto]

/-- A refill stands before its Delay at its two Delay points, whichever command it is in, but for a CONT or CONTZ of length 0. -/
theorem RefillPlace.pendingDelay_eq {restart : Bool} {at' : RefillPoint → Running} (h : RefillPlace restart at') (b : Build)
    (p : RefillPoint) (hc : at' p ≠ .cont (.enter 0 0)) (hz : at' p ≠ .contZ (.enter 0 0)) :
    pendingDelay b (at' p) = refillDelay b p := by
  cases h with
  | cont => exact if_neg fun e => hc (congrArg Running.cont e)
  | contZ => exact if_neg fun e => hz (congrArg Running.contZ e)
  | txByte k => rfl
  | tx i d k => rfl
  | ofBegin h => cases h <;> rfl

/-- A poll of refill awaits a free slot, whichever command it is in. -/
theorem RefillPlace.awaits_eq {restart : Bool} {at' : RefillPoint → Running} (h : RefillPlace restart at') (p : RefillPoint) :
    awaits (at' p) = refillAwaits p := by
  cases h with
  | cont => rfl
  | contZ => rfl
  | txByte k => rfl
  | tx i d k => rfl
  | ofBegin h => cases h <;> rfl

theorem BeginPlace.awaits_eq {at' : BeginPoint → Running} (h : BeginPlace at') (p : BeginPoint) :
    awaits (at' p) = beginAwaits p := by
  cases h <;> rfl

theorem EndPlace.awaits_eq {at' : EndPoint → Running} (h : EndPlace at') (p : EndPoint) :
    awaits (at' p) = endAwaits p := by
  cases h <;> rfl

end Sys2Proof.Machine
end

