-- ==== Sys2Proof/Laws/Runs.lean ====
section
/-! SUPPORT. Runs: how they compose, that a waiting machine stays, and that the premises about a run hold of every later part of it. -/

namespace Sys2Proof.Machine

/-- One step, then the rest. -/
theorem runN_succ {s u : State} (h : step s = .next u) (n : Nat) : runN (n + 1) s = runN n u := by
  simp [runN, h]

/-- A run of `m + n` steps is one of `m` steps and then one of `n`. -/
theorem runN_add {s u : State} {m : Nat} (h : runN m s = .next u) (n : Nat) : runN (m + n) s = runN n u := by
  induction m generalizing s with
  | zero =>
    obtain rfl : s = u := by simpa [runN] using h
    rw [Nat.zero_add]
  | succ m ih =>
    cases hs : step s with
    | next v => rw [Nat.add_right_comm, runN_succ hs]; exact ih (runN_succ hs m ▸ h)
    | fault r => simp [runN, hs] at h
    | refused r => simp [runN, hs] at h

/-- Where LSTX waits and no move is pending, every run stays. -/
theorem runN_waiting {s : State} (hq : s.seq = none) (hi : s.inputs = []) (n : Nat) : runN n s = .next s := by
  induction n with
  | zero => rfl
  | succ n ih => exact (runN_succ (by rw [step_of_no_input hi]; simp [runSequencer, hq]) n).trans ih

theorem Reaches.refl (s : State) : Reaches s s := ⟨0, rfl⟩

theorem Reaches.trans {s t u : State} (h : Reaches s t) (k : Reaches t u) : Reaches s u := by
  obtain ⟨m, hm⟩ := h
  obtain ⟨n, hn⟩ := k
  exact ⟨m + n, (runN_add hm n).trans hn⟩

theorem Reaches.of_step {s t : State} (h : step s = .next t) : Reaches s t := ⟨1, (runN_succ h 0).trans rfl⟩

/-- A run is over at once, or takes one step and goes on. -/
theorem Reaches.cases_step {s t u : State} (hs : step s = .next t) (h : Reaches s u) : u = s ∨ Reaches t u := by
  obtain ⟨n, hn⟩ := h
  cases n with
  | zero => exact .inl (by simpa [runN] using hn.symm)
  | succ n => exact .inr ⟨n, runN_succ hs n ▸ hn⟩

/-- From a waiting state with no move pending, a run reaches no other. -/
theorem Reaches.waiting {s u : State} (hq : s.seq = none) (hi : s.inputs = []) (h : Reaches s u) : u = s := by
  obtain ⟨n, hn⟩ := h
  simpa using (runN_waiting hq hi n).symm.trans hn |>.symm

/-- A step of the running command, with no move pending. -/
theorem step_of_seq {s : State} {q : Running} (hi : s.inputs = []) (hq : s.seq = some q) : step s = .next (microStep q s) := by
  rw [step_of_no_input hi, runSequencer_eq, hq]

/-- With no move pending, a step changes neither the pending moves nor whether delays return. -/
theorem microStep_quiet (q : Running) (s : State) :
    (microStep q s).inputs = s.inputs ∧ (microStep q s).delayReturns = s.delayReturns := by
  cases hq : q.writesResult with
  | false => exact ⟨(shape_microStep hq s).untouched.inputs, (shape_microStep hq s).untouched.delayReturns⟩
  | true => cases q <;> first | exact ⟨rfl, rfl⟩ | cases hq

/-- A run with no move pending has none later, and delays return in it or not as at its start. -/
theorem Reaches.quiet {s u : State} (hi : s.inputs = []) (h : Reaches s u) :
    u.inputs = [] ∧ u.delayReturns = s.delayReturns := by
  obtain ⟨n, hn⟩ := h
  induction n generalizing s with
  | zero =>
    obtain rfl : s = u := by simpa [runN] using hn
    exact ⟨hi, rfl⟩
  | succ n ih =>
    cases hq : s.seq with
    | none =>
      obtain rfl : s = u := by simpa using (runN_waiting hq hi (n + 1)).symm.trans hn
      exact ⟨hi, rfl⟩
    | some q =>
      have hm := microStep_quiet q s
      have := ih (hm.1.trans hi) (runN_succ (step_of_seq hi hq) n ▸ hn)
      exact ⟨this.1, this.2.trans hm.2⟩

/-! ### Whether delays return -/

/-- Where delays return and no move is pending, the timing service is live. -/
theorem timerLive_of_returning {s : State} (hi : s.inputs = []) (hd : s.delayReturns = true) : timerLive s := by
  intro u h _ ho
  have hu : u.delayReturns = true := (h.quiet hi).2.trans hd
  unfold delayOutstanding at ho
  split at ho <;> simp [hu] at ho

/-- A Delay at which the run stays does not return. -/
theorem returnsWithin_hung {s : State} (ho : delayOutstanding s = true)
    (hs : step s = .next s) (n : Nat) : returnsWithin n s = false := by
  have hd : s.delayReturns = false := by
    unfold delayOutstanding at ho
    split at ho <;> simp_all
  induction n with
  | zero => rfl
  | succ n ih => simp [returnsWithin, hd, hs, ih]

/-! ### A premise about a run holds of its later part -/

theorem bufferStable.later {a n : Nat} {s t : State} (h : bufferStable a n s) (r : Reaches s t) : bufferStable a n t :=
  fun u v x k => h u v x (r.trans k)

theorem framedSession.later {s t : State} (h : framedSession s) (r : Reaches s t) : framedSession t :=
  fun u k => h u (r.trans k)

theorem deviceLive.later {s t : State} (h : deviceLive s) (r : Reaches s t) : deviceLive t :=
  fun u q w k => h u q w (r.trans k)

theorem timerLive.later {s t : State} (h : timerLive s) (r : Reaches s t) : timerLive t :=
  fun u k => h u (r.trans k)

/-! ### Reset closes the session -/

/-- After the reset step a BEGIN has its place and a CONT, CONTZ or END has none, whatever was open before. -/
theorem framedMove_after_reset (s : State) (i : Instr) (w : Word) (rest : List Input) (hw : decodeWord w = .ok i) :
    framedMove { resetEvent s with inputs := .store 0x00 4 w :: rest } = framingAllows false i := by
  simp [framedMove, accepting, resetEvent, hw, Except.toOption]

end Sys2Proof.Machine
end

