-- ==== Sys2Proof/Tests/Slice0.lean ====
section
/-! SUPPORT. Small tests: ill-formed terms refused, words decoded, one step per command on vectors of 95_test_vectors.md, and a witness for the hypotheses of each statement. -/

namespace Sys2Proof.Tests

open Sys2Proof Sys2Proof.Machine

/-! ### The bench: the hypothetical tables of 95_test_vectors.md -/

/-- The power table of V-PW1, the default parameters, two constant PRN sequences, host memory readable below 0x2000. -/
def benchBuild : Build where
  prnZero       := Vector.replicate 64 0x00#8
  prnOne        := Vector.replicate 64 0xFF#8
  paceMode      := .deterministic
  refillQuantum := 1
  oscMask       := 0x80#8
  strobeIdle    := 0x36#8
  strobeFlush   := 0x3B#8
  strobeStart   := 0x35#8
  strobeNop     := 0x3D#8
  powerTable    := ⟨⟨-30, 0x03#8⟩, [⟨0, 0x50#8⟩, ⟨10, 0xC0#8⟩]⟩
  powerDefault  := 0xC0#8
  powerReset    := 0x11#8
  lenWidth      := 16
  addrWidth     := 32
  readable      := [⟨0, 0x2000⟩]

/-- The bench build in PRODUCTION. -/
def productionBuild : Build := { benchBuild with paceMode := .production }

/-- Just after reset, on the bench. -/
def bench : State := { State.reset with build := benchBuild, power := 0x11#8, delayReturns := true }

/-- The bench with a command running at point `q`, its latches named by the command's word. -/
def at' (q : Running) : State :=
  { bench with busy := true, seq := some q, lOp := q.command.op, lZf := q.command.zf }

/-- The bench after a memory fault. -/
def faulted : State := { bench with fault := true, err := .memFault }

/-- The next state, if there is one. -/
def nextOf (o : Host.Outcome State Fault Refusal) : Option State :=
  match o with
  | .next t => some t
  | .fault _ => none
  | .refused _ => none

/-! ### Well-formedness refuses -/

theorem test_bench_build_wf : benchBuild.wf = true := by decide
theorem test_wf_refuses_falling_power_table :
    Build.wf { benchBuild with powerTable := ⟨⟨0, 0x50#8⟩, [⟨-30, 0x03#8⟩]⟩ } = false := by decide
theorem test_wf_refuses_equal_strobes : Build.wf { benchBuild with strobeIdle := 0x3D#8 } = false := by decide
theorem test_wf_refuses_zero_osc_mask : Build.wf { benchBuild with oscMask := 0#8 } = false := by decide
theorem test_wf_refuses_low_osc_mask : Build.wf { benchBuild with oscMask := 0x81#8 } = false := by decide
theorem test_wf_refuses_wrong_default : Build.wf { benchBuild with powerDefault := 0xC1#8 } = false := by decide
theorem test_wf_refuses_narrow_length : Build.wf { benchBuild with lenWidth := 6 } = false := by decide
theorem test_wf_refuses_wide_address : Build.wf { benchBuild with addrWidth := 33 } = false := by decide
/-- A command has no operand, so there is no ill-formed command. -/
theorem test_every_command_wf : ∀ i : Instr, i.wf = true := fun _ => rfl
theorem test_asm_refuses_wide_data : asmWf benchBuild (.encode 256) = false := by decide
theorem test_asm_refuses_long_length : asmWf benchBuild (.contZ 65536) = false := by decide
theorem test_asm_refuses_wide_address : asmWf benchBuild (.tx 4294967296 1) = false := by decide
theorem test_asm_refuses_low_dbm : asmWf benchBuild (.setPwr (-129)) = false := by decide

/-! ### Decoding: the words of 30_encoding.md R48 and R50 written out bit by bit (reserved, ZF, OP) -/

theorem test_decode_encode : decodeWord 0b000000000000000000000000000_0_0001#32 = .ok .encode := by decide
theorem test_decode_frame : decodeWord 0b000000000000000000000000000_0_0010#32 = .ok .frame := by decide
theorem test_decode_txbyte : decodeWord 0b000000000000000000000000000_0_0011#32 = .ok .txByte := by decide
theorem test_decode_tx : decodeWord 0b000000000000000000000000000_0_0100#32 = .ok .tx := by decide
theorem test_decode_rawtx : decodeWord 0b000000000000000000000000000_0_0101#32 = .ok .rawTx := by decide
theorem test_decode_begin : decodeWord 0b000000000000000000000000000_0_0110#32 = .ok .beginTx := by decide
theorem test_decode_cont : decodeWord 0b000000000000000000000000000_0_0111#32 = .ok .cont := by decide
theorem test_decode_contz : decodeWord 0b000000000000000000000000000_1_0111#32 = .ok .contZ := by decide
theorem test_decode_end : decodeWord 0b000000000000000000000000000_0_1000#32 = .ok .endTx := by decide
theorem test_decode_setpwr : decodeWord 0b000000000000000000000000000_0_1001#32 = .ok .setPwr := by decide
/-- V-AC3 to V-AC9. -/
theorem test_decode_rejects :
    [0x00#32, 0x0A#32, 0x0F#32, 0x11#32, 0x18#32, 0x21#32, 0x80000004#32].map decodeWord =
      [.error .reservedOpcode, .error .reservedOpcode, .error .reservedOpcode, .error .zeroFillWithoutCont,
        .error .zeroFillWithoutCont, .error .reservedBits, .error .reservedBits] := by decide
/-- The opcode table's CONTZ row is 0x17. -/
theorem test_encode_contz : encodeWord .contZ = 0x17#32 := by decide
theorem test_table_word_too_wide : decodeTableWord 48 0x01 = none := by decide

/-! ### From reset, the very next step runs the placed command -/

theorem test_reset_runs_encode :
    step (State.reset.withFetchWord 32 0x01) = exec .encode (State.reset.withFetchWord 32 0x01) := by rfl
theorem test_reset_runs_tx : step (State.reset.withFetchWord 32 0x04) = exec .tx (State.reset.withFetchWord 32 0x04) := by rfl
theorem test_reset_runs_end :
    step (State.reset.withFetchWord 32 0x08) = exec .endTx (State.reset.withFetchWord 32 0x08) := by rfl
/-- V-AC3: an illegal word placed from reset is rejected with STATUS = 0x100. -/
theorem test_reset_rejects_illegal :
    (nextOf (step (State.reset.withFetchWord 32 0x00))).map State.statusWord = some 0x100#32 := by decide
/-- With nothing placed, LSTX waits (70_reset_and_hazards.md R114). -/
theorem test_reset_waits : step State.reset = .next State.reset := by rfl

/-! ### Acceptance and the register block -/

/-- V-AC13: a CMD write while FAULT = 1 leaves ERR at 3. -/
theorem test_cmd_while_fault : (nextOf (hostStore 0x00 4 0x01#32 faulted)).map State.statusWord = some 0x302#32 := by decide
/-- V-AC12: BUSY is tested before legality. -/
theorem test_illegal_while_busy :
    (nextOf (hostStore 0x00 4 0x0A#32 (at' (.txByte (.first .enter))))).map State.err = some .cmdWhileBusy := by decide
/-- V-FEC6: a store of 0x1FF to ARG_DATA keeps 0xFF. -/
theorem test_arg_data_keeps_byte : (nextOf (hostStore 0x08 4 0x1FF#32 bench)).map State.argData = some 0xFF#8 := by decide
theorem test_halfword_refused : nextOf (hostLoad 0x04 2 bench) = none := by decide
theorem test_offset_40_refused : nextOf (hostStore 0x28 4 0#32 bench) = none := by decide
/-- The STATUS word of V-MF1: FAULT 1, PHASE 2, ERR 3, LAST_DEV 0x0F. -/
theorem test_status_word :
    State.statusWord { faulted with phase := .initialFill, lastDev := 0x0F#8 } = 0x000F030A#32 := by decide
/-- V-RS1: reset puts POWER back to POWER_RESET and clears STATUS. -/
theorem test_reset_event :
    (nextOf (step { faulted with inputs := [.reset], power := 3#8 })).map (fun t => (t.statusWord, t.power)) =
      some (0#32, 0x11#8) := by decide
/-- A written byte reads back, and writing 0 again leaves no cell. -/
theorem test_memory_canonical :
    Memory.read (Memory.write [] 5 7#8) 5 = 7#8 ∧ Memory.write (Memory.write [] 5 7#8) 5 0#8 = [] := by decide

/-! ### FEC and frame -/

/-- S1 to S3 and V-FEC2. -/
theorem test_fec_source_examples :
    [0x00#8, 0xFF#8, 0x80#8, 0x79#8].map fec = [0x00#8, 0x14#8, 0x9E#8, 0x00#8] := by decide
/-- Row A_ of V-FEC1. -/
theorem test_fec_row_a :
    (List.range 16).map (fun n => fec (BitVec.ofNat 8 (0xA0 + n))) =
      [0x53#8, 0x84#8, 0x2B#8, 0xFC#8, 0xA1#8, 0x76#8, 0xD9#8, 0x0E#8, 0x60#8, 0xB7#8, 0x18#8, 0xCF#8, 0x92#8, 0x45#8,
        0xEA#8, 0x3D#8] := by decide
/-- V-FR1. -/
theorem test_frame_words :
    [0x00#8, 0x55#8, 0x79#8, 0xA5#8, 0xFF#8].map frameWord =
      [0x39000058#30, 0x39062AD8#30, 0x39003CD8#30, 0x393B52D8#30, 0x390A7FD8#30] := by decide
/-- S6: the bit-selector sequence of d = 0x00. -/
theorem test_frame_bits :
    (frame 0x00#8).map Bool.toNat = [1,1,1,0,0,1,0, 0,0,0,0,0,0,0,0, 0,0,0,0,0,0,0,0, 1,0,1,1,0,0,0] := by decide
/-- ENCODE of 0x80 gives 0x9E (R63's example). -/
theorem test_encode : (nextOf (exec .encode { at' .encode with lData := 0x80#8 })).map State.result = some 0x9E#30 := by decide
/-- FRAME of 0xFF gives 0x390A7FD8 (P1). -/
theorem test_frame : (nextOf (exec .frame { at' .frame with lData := 0xFF#8 })).map State.result = some 0x390A7FD8#30 := by decide

/-! ### Power: V-PW1 -/

/-- SETPWR of -40 dBm clamps to 0x03 (P2). -/
theorem test_setpwr_clamps :
    (nextOf (exec .setPwr { at' .setPwr with lData := 0xD8#8 })).map (fun t => (t.power, t.result)) =
      some (0x03#8, 0x03#30) := by decide
/-- The nine cases of V-PW1. -/
theorem test_power_lookup :
    [0, -30, 10, -40, -128, 20, 127, 5, -29].map (powerLookup benchBuild.powerTable benchBuild.powerDefault) =
      [0x50#8, 0x03#8, 0xC0#8, 0x03#8, 0x03#8, 0xC0#8, 0xC0#8, 0xC0#8, 0xC0#8] := by decide

/-! ### Stream commands: one step each -/

/-- V-ST2: status 0x1F is not idle, so the idle wait goes on, in PHASE FLUSHING. -/
theorem test_begin_idle_wait :
    (nextOf (exec .beginTx { at' (.beginTx .enter) with lLen := 64#32, devIn := [0x1F#8] })).map
      (fun t => (t.seq, t.phase, t.sessRemaining, t.trace)) =
      some (some (.beginTx .idleWait), .flushing, 64#32, [.strobe 0x3D#8 0x1F#8]) := by decide
/-- V-MF2: a fault at the first byte leaves PHASE at FLUSHING, STATUS 0x000F0306. -/
theorem test_begin_fault :
    (nextOf (exec .beginTx { at' (.beginTx (.fill [])) with
      lAddr := 0x2000#32, lLen := 5#32, phase := .flushing, lastDev := 0x0F#8 })).map
      (fun t => (t.statusWord, t.faultAddr, t.trace)) = some (0x000F0306#32, 0x2000#32, []) := by decide
/-- V-ST4: the poll 0x25 of CONT with 5 bytes left makes a chunk of 5. -/
theorem test_cont_poll :
    (nextOf (exec .cont { at' (.cont (.poll 15 5)) with lLen := 20#32, devIn := [0x25#8] })).map State.seq =
      some (some (.cont (.chunk 15 5 5 []))) := by decide
/-- V-ST5: CONT with length 0 is one silent step. -/
theorem test_cont_zero_length :
    (nextOf (exec .cont { at' (.cont (.enter 0 0)) with sessWritten := 64#32 })).map
      (fun t => (t.busy, t.sessWritten, t.trace)) = some (false, 0#32, []) := by decide
/-- V-ST6: the last WriteZeros(1) of CONTZ. -/
theorem test_contz_last_write :
    (nextOf (exec .contZ { at' (.contZ (.chunk 15 1 1 [])) with lLen := 16#32, sessWritten := 15#32, sessRemaining := 1#32 })).map
      (fun t => (t.busy, t.sessWritten, t.sessRemaining, t.trace)) = some (false, 16#32, 0#32, [.writeZeros 1]) := by decide
/-- V-ST8: 0xFF does not end the drain wait, 0x7F does. -/
theorem test_end_drain_wait :
    [0xFF#8, 0x7F#8].map (fun st => (nextOf (exec .endTx { at' (.endTx .drainWait) with devIn := [st] })).map State.seq) =
      [some (some (.endTx .drainWait)), some (some (.endTx .idle))] := by decide
/-- V-ST8: the IDLE strobe ends END with STATUS 0x000F0000. -/
theorem test_end_completes :
    (nextOf (exec .endTx { at' (.endTx .idle) with phase := .draining, devIn := [0x0F#8] })).map State.statusWord =
      some 0x000F0000#32 := by decide
/-- V-TB1: the first burst of d = 0x00 is one write of PRN_ONE. -/
theorem test_txbyte_first_burst :
    (nextOf (exec .txByte { at' (.txByte (.first (.fill []))) with sessRemaining := 64#32 })).map
      (fun t => (t.seq, t.sessWritten, t.trace)) =
      some (some (.txByte (.first .start)), 64#32, [.writeBuf (List.replicate 64 0xFF#8)]) := by decide
/-- V-TX1: after a frame, DETERMINISTIC waits 1000 ms. -/
theorem test_tx_pacing :
    (nextOf (exec .tx { at' (.tx (.frame 0 0x80#8 (.last .idle))) with lLen := 2#32 })).map State.seq =
      some (some (.tx (.gapDelay 0 1000))) := by decide
/-- V-TX2: the raw number 3999 is the gap draw 11999. -/
theorem test_tx_gap_draw :
    (nextOf (exec .tx { at' (.tx (.gapDraw 0)) with build := productionBuild, rndIn := [3999] })).map State.trace =
      some [.random 8000 12000 11999] := by decide
/-- V-RT1: RAWTX goes on to its end after START_TX where the length is at most 64. -/
theorem test_rawtx_closes :
    (nextOf (exec .rawTx { at' (.rawTx (.stream .start)) with lLen := 2#32 })).map State.seq =
      some (some (.rawTx (.close .enter))) := by decide

/-! ### Witnesses: a state and operands that meet the hypotheses of each statement, clause by clause -/

theorem witness_EachCommandHasExactlyOneWord : Instr.wf .contZ = true ∧ decodeWord 0x17#32 = .ok .contZ := by decide
theorem witness_CmdWriteFollowsAcceptanceOrder :
    faulted.fault = true ∧ ((at' .encode).fault = false ∧ (at' .encode).busy = true) ∧
    (bench.fault = false ∧ bench.busy = false ∧ legalWord 0x18#32 = false ∧ legalWord 0x17#32 = true) := by decide
theorem witness_IllegalWordSetsErrOnly : bench.fault = false ∧ bench.busy = false ∧
    (0x0A#32).extractLsb' 0 4 = 10#4 ∧ (0x20#32).extractLsb' 5 27 ≠ 0#27 ∧
    ((0x18#32).getLsbD 4 = true ∧ (0x18#32).extractLsb' 0 4 ≠ 7#4) := by decide
theorem witness_BusyWriteIsDiscarded : (at' .encode).fault = false ∧ (at' .encode).busy = true ∧
    (nextOf (exec .encode (at' .encode))).map State.fault = some false := by decide
theorem witness_FaultedMachineIgnoresCommands : faulted.fault = true ∧
    (nextOf (step { faulted with inputs := [.reset] })).map State.fault = some false := by decide
theorem witness_FaultSetOnlyByMemFault :
    (at' (.tx (.read 0x2000))).fault = false ∧
    (nextOf (step (at' (.tx (.read 0x2000))))).map State.fault = some true ∧
    (nextOf (step { faulted with inputs := [.reset] })).map State.fault = some false := by decide
theorem witness_StepRunsTheDecodedCommand :
    decodeTableWord 32 0x09 = some .setPwr ∧
    ((at' .encode).seq = some .encode ∧ (at' .encode).inputs = []) ∧
    (({ at' .encode with inputs := [.turn] } : State).inputs = [.turn]) ∧
    (({ bench with inputs := [.store 0x00 4 0x09#32] } : State).inputs = [.store 0x00 4 0x09#32] ∧ bench.fault = false ∧
      bench.busy = false ∧ decodeWord 0x09#32 = .ok .setPwr) := by decide
theorem witness_ResetLeavesLstxReadyAndWaiting : bench.seq = none ∧ bench.inputs = [] := by decide
theorem witness_ResetEventRestoresResetValues :
    ({ at' (.tx .start) with inputs := [.reset, .turn] } : State).inputs = .reset :: [.turn] := by decide
theorem witness_ReadOnlyRegistersIgnoreStores : 0x04 ∈ [0x04, 0x14, 0x18, 0x1C, 0x20, 0x24] ∧
    0x24 ∈ [0x04, 0x14, 0x18, 0x1C, 0x20, 0x24] := by decide
theorem witness_UnadmittedRegisterAccessesAreRefused :
    (2 ≠ 4 ∨ 0x24 < 0x28 ∨ 0x06 % 4 ≠ 0) ∧ (4 = 4 ∧ 0x24 ≤ 0x24 ∧ 0x24 % 4 = 0) ∧ 0x24 < 0x25 := by decide
theorem witness_HostMemoryWriteThenRead : Memory.wf [(3, 1#8), (9, 2#8)] = true ∧ 4294967295 < 2 ^ benchBuild.addrWidth ∧
    2 ^ benchBuild.addrWidth ≤ 4294967296 := by decide
theorem witness_WaitPollsUntilNotBusy :
    ({ at' .encode with inputs := [.wait, .turn] } : State).inputs = .wait :: [.turn] ∧ (at' .encode).busy = true ∧
    bench.busy = false := by decide
theorem witness_AsmLinesDeliverTheirOperands : bench.busy = false ∧ bench.fault = false ∧ 255 < 256 ∧
    (AsmLine.frame 255, Instr.frame) ∈ [(AsmLine.encode 255, Instr.encode), (.frame 255, .frame), (.txByte 255, .txByte)] ∧
    ({ bench with inputs := asmExpand (.txByte 255) ++ [.turn] } : State).inputs = asmExpand (.txByte 255) ++ [.turn] ∧
    ({ bench with inputs := asmExpand (.setPwr (-128)) ++ [] } : State).inputs = asmExpand (.setPwr (-128)) ++ [] ∧
    benchBuild.widthsOk = true ∧ 4294967295 < 2 ^ bench.build.addrWidth ∧ 65535 < 2 ^ bench.build.lenWidth ∧
    (AsmLine.cont 4294967295 65535, Instr.cont) ∈ [(AsmLine.tx 4294967295 65535, Instr.tx), (.rawTx 4294967295 65535, .rawTx),
      (.beginTx 4294967295 65535, .beginTx), (.cont 4294967295 65535, .cont)] ∧
    ({ bench with inputs := asmExpand (.contZ 65535) ++ [] } : State).inputs = asmExpand (.contZ 65535) ++ [] ∧
    ({ bench with inputs := asmExpand .endTx ++ [] } : State).inputs = asmExpand .endTx ++ [] := by decide
theorem witness_EncodeWritesParityByte : (at' .encode).seq = some .encode := by decide
theorem witness_FecMinimumDistanceIsFive : (0x02#8 : Byte) ≠ 0x00#8 ∧ weight (0x02#8 ^^^ 0x00#8) + weight (fec 0x02#8 ^^^ fec 0x00#8) = 5 := by
  decide
theorem witness_FrameWritesFrameWord : (at' .frame).seq = some .frame := by decide
/-- Every clause of the lookup at a boundary: an entry, one below the first, one above the last, a gap. -/
theorem witness_SetPwrLooksUpCalibrationByte : (at' .setPwr).seq = some .setPwr ∧ benchBuild.powerTable.wf = true ∧
    (0x0A#8 : Byte).toInt = 10 ∧ (0xE1#8 : Byte).toInt = -31 ∧ (0x0B#8 : Byte).toInt = 11 ∧ (0xE3#8 : Byte).toInt = -29 ∧
    benchBuild.powerTable.entries.head?.map PowerEntry.dbm = some (-30) ∧
    benchBuild.powerTable.entries.getLast?.map PowerEntry.dbm = some 10 ∧
    benchBuild.powerTable.entries.all (fun e => e.dbm != -29) = true := by decide
theorem witness_BeginCompletesWithItsLastEvent :
    ((at' (.beginTx .start)).seq = some (.beginTx .start) ∧ ({ at' (.beginTx .start) with lLen := 64#32 } : State).lLen.toNat ≤ 64) ∧
    ((at' (.beginTx (.refill (.chunk 64 1 1 [9#8])))).seq = some (.beginTx (.refill (.chunk 64 1 1 [9#8]))) ∧
      [9#8].length = 1) := by decide
theorem witness_ContCompletesWithItsLastWrite :
    ((at' (.cont (.chunk 15 2 2 [1#8, 2#8]))).seq = some (.cont (.chunk 15 2 2 [1#8, 2#8])) ∧ [1#8, 2#8].length = 2) ∧
    (at' (.cont (.enter 0 0))).seq = some (firstPoint 0 .cont) := by decide
theorem witness_ContZCompletesWithItsLastWrite :
    (at' (.contZ (.chunk 15 1 1 []))).seq = some (.contZ (.chunk 15 1 1 [])) ∧
    (at' (.contZ (.enter 0 0))).seq = some (firstPoint 0 .contZ) := by decide
theorem witness_EndTxByteRawTxCompleteWithIdleStrobe :
    (at' (.endTx .idle)).seq = some (.endTx .idle) ∧ (at' (.txByte (.last .idle))).seq = some (.txByte (.last .idle)) ∧
    (at' (.rawTx (.close .idle))).seq = some (.rawTx (.close .idle)) := by decide
theorem witness_TxCompletesWithItsLastDelay :
    ((at' (.tx (.gapDelay 1 1000))).seq = some (.tx (.gapDelay 1 1000)) ∧
      ({ at' (.tx (.gapDelay 1 1000)) with lLen := 2#32 } : State).lLen.toNat ≤ 1 + 1 ∧ bench.delayReturns = true) ∧
    ((at' (.tx (.leadDelay 0))).seq = some (.tx (.leadDelay 0)) ∧ (at' (.tx (.leadDelay 0))).lLen.toNat = 0) ∧
    ((at' (.tx .start)).seq = some (firstPoint 0 .tx) ∧ benchBuild.paceMode = .deterministic) := by decide

/-- BEGIN of one byte at 0x1FFF, the last readable one, on a device that is not idle at its first poll. -/
def beginBench : State :=
  { at' (.beginTx .enter) with lAddr := 0x1FFF#32, lLen := 1#32, devIn := [0x1F#8] ++ 0x0F#8 :: 0x0F#8 :: 0x0F#8 :: [] }

theorem witness_BeginOfOneChunkRuns :
    beginBench.inputs = [] ∧ beginBench.seq = some (firstPoint beginBench.lLen.toNat .beginTx) ∧ beginBench.lLen.toNat ≤ 64 ∧
    beginBench.lLen.toNat < 2 ^ beginBench.build.lenWidth ∧
    (∀ j, j < 1 → admits beginBench.build (beginBench.lAddr.toNat + j) = true) ∧
    (∀ x, x ∈ [0x1F#8] → x.extractLsb' 4 4 ≠ 0#4) ∧ (0x0F#8).extractLsb' 4 4 = 0#4 ∧
    beginBench.devIn = [0x1F#8] ++ 0x0F#8 :: 0x0F#8 :: 0x0F#8 :: [] := by decide
theorem witness_LongBeginWaitsForOscillatorThenRefills :
    64 < ({ at' (.beginTx .start) with lLen := 65#32 } : State).lLen.toNat ∧
    (at' (.beginTx .start)).seq = some (.beginTx .start) ∧ (at' (.beginTx .oscWait)).seq = some (.beginTx .oscWait) ∧
    (0x0F#8 &&& benchBuild.oscMask = 0#8) ∧ (0x8F#8 &&& benchBuild.oscMask ≠ 0#8) ∧
    (at' (.beginTx (.refill (.enter 64 1)))).seq = some (.beginTx (.refill (.enter 64 (65 - 64)))) ∧
    (at' (.rawTx (.stream .oscWait))).seq = some (.rawTx (.stream .oscWait)) ∧
    ((at' (.rawTx (.stream (.fill [])))).seq = some (.rawTx (.stream (.fill []))) ∧ admits benchBuild (0x1FFF + 0) = true) ∧
    ((at' (.beginTx (.fill (List.replicate 64 7#8)))).seq = some (.beginTx (.fill (List.replicate 64 7#8))) ∧
      (List.replicate 64 7#8).length = 64) := by decide
/-- END of V-ST8. -/
theorem witness_EndRunsToTheDrainedStatus :
    bench.inputs = [] ∧ (at' (.endTx .enter)).seq = some (firstPoint 0 .endTx) ∧
    (∀ x, x ∈ [0x2A#8, 0x7E#8, 0xFF#8] → x ≠ 0x7F#8) ∧
    ({ at' (.endTx .enter) with devIn := [0x2A#8, 0x7E#8, 0xFF#8, 0x7F#8, 0x0F#8] } : State).devIn =
      [0x2A#8, 0x7E#8, 0xFF#8] ++ 0x7F#8 :: 0x0F#8 :: [] := by decide

/-- CONT or CONTZ of two bytes at 0x1FFE on a device that reports one free slot at a time. -/
def contBench (i : Instr) : State :=
  { at' (firstPoint 2 i) with lAddr := 0x1FFE#32, lLen := 2#32, devIn := [0x21#8, 0x21#8] }

theorem witness_ContinueEndsWhileSlotsAreFree :
    (contBench .cont).inputs = [] ∧ (contBench .cont).delayReturns = true ∧ (contBench .cont).fault = false ∧
    0 < (contBench .cont).lLen.toNat ∧ (contBench .cont).lLen.toNat ≤ (contBench .cont).devIn.length ∧
    (∀ x, x ∈ (contBench .cont).devIn → x.extractLsb' 0 4 ≠ 0#4) ∧
    (contBench .cont).seq = some (firstPoint 2 .cont) ∧ (contBench .contZ).seq = some (firstPoint 2 .contZ) ∧
    (∀ j, j < 2 → admits (contBench .cont).build ((contBench .cont).lAddr.toNat + j) = true) := by decide
theorem witness_TxByteRunsOneFrame :
    ∃ s : State, s.inputs = [] ∧ s.delayReturns = true ∧ s.build.wf = true ∧
      s.seq = some (firstPoint s.lLen.toNat .txByte) ∧ (0x0F#8).extractLsb' 4 4 = 0#4 ∧ (0x2F#8).extractLsb' 0 4 = 15#4 ∧
      s.devIn = 0x0F#8 :: 0x0F#8 :: 0x0F#8 :: (List.replicate 145 0x2F#8 ++ 0x7F#8 :: 0x0F#8 :: []) :=
  ⟨{ at' (.txByte (.first .enter)) with
      devIn := 0x0F#8 :: 0x0F#8 :: 0x0F#8 :: (List.replicate 145 0x2F#8 ++ 0x7F#8 :: 0x0F#8 :: []) },
    rfl, rfl, by decide, rfl, by decide, by decide, rfl⟩
/-- A run that ends: CONTZ of one byte in three steps. -/
theorem witness_EndedCommandHasSentItsPayload :
    ∃ s t, s.inputs = [] ∧ s.fault = false ∧ s.seq = some (firstPoint s.lLen.toNat .contZ) ∧ runN 3 s = .next t ∧
      t.seq = none ∧ t.fault = false :=
  ⟨{ at' (firstPoint 1 .contZ) with lLen := 1#32, devIn := [0x21#8] }, _, rfl, rfl, rfl, rfl, rfl, rfl⟩
/-- The three waits, in BEGIN and END, inside RAWTX and inside the frames of TXBYTE and TX. -/
theorem witness_WaitsPollWithoutBound :
    bench.inputs = [] ∧ 0 < 2 ∧
    (∀ m, m < 2 → isIdle (statusAt { at' (.beginTx .idleWait) with devIn := [0x1F#8, 0xFF#8] } m) = false) ∧
    (∀ m, m < 2 → oscStable benchBuild.oscMask (statusAt { at' (.beginTx .oscWait) with devIn := [0x8F#8, 0xFF#8] } m) = false) ∧
    (∀ m, m < 2 → isDrained (statusAt { at' (.endTx .drainWait) with devIn := [0x7E#8, 0xFF#8] } m) = false) ∧
    BeginPlace .beginTx ∧ (at' (.beginTx .idleWait)).seq = some (.beginTx .idleWait) ∧
    BeginPlace (fun p => .rawTx (.stream p)) ∧ (at' (.rawTx (.stream .oscWait))).seq = some (.rawTx (.stream .oscWait)) ∧
    BeginPlace (fun p => .tx (.frame 0 1#8 (.first p))) ∧
    (at' (.tx (.frame 0 1#8 (.first .enter)))).seq = some (.tx (.frame 0 1#8 (.first .enter))) ∧
    EndPlace .endTx ∧ (at' (.endTx .drainWait)).seq = some (.endTx .drainWait) ∧
    EndPlace (fun p => .txByte (.last p)) ∧ (at' (.txByte (.last .enter))).seq = some (.txByte (.last .enter)) :=
  ⟨by decide, by decide, by decide, by decide, by decide, .beginTx, rfl, .rawTx, rfl, .tx 0 1#8, rfl, .endTx, rfl, .txByte, rfl⟩
/-- V-ST10, two passes, in CONT; a first pass in CONTZ, in RAWTX and in the frame of TXBYTE. -/
theorem witness_RefillWithoutFreeSlotsAdvancesNothing :
    bench.inputs = [] ∧ bench.delayReturns = true ∧ 0 < 5 ∧ bench.sessWritten.toNat < 2 ^ benchBuild.lenWidth ∧
    bench.sessRemaining.toNat < 2 ^ benchBuild.lenWidth ∧ 5 < 2 ^ benchBuild.lenWidth ∧
    (∀ m, m < 2 → freeSlots (statusAt { at' (.cont (.delay 0 5)) with devIn := [0x20#8, 0x20#8] } m) = 0) ∧
    RefillPlace true .cont ∧ (at' (.cont (.delay 0 5))).seq = some (.cont (.delay 0 5)) ∧
    RefillPlace true .contZ ∧ (at' (.contZ (.enter 0 5))).seq = some (.contZ (.enter 0 5)) ∧
    RefillPlace false (fun p => .rawTx (.stream (.refill p))) ∧
    (at' (.rawTx (.stream (.refill (.enter 64 5))))).seq = some (.rawTx (.stream (.refill (.enter 64 5)))) ∧
    RefillPlace true (fun p => .txByte (.burst 1 p)) ∧
    (at' (.txByte (.burst 1 (.enter 0 64)))).seq = some (.txByte (.burst 1 (.enter 0 64))) :=
  ⟨by decide, by decide, by decide, by decide, by decide, by decide, by decide, .cont, rfl, .contZ, rfl, .ofBegin .rawTx, rfl,
    .txByte 1, rfl⟩
theorem witness_DelayThatDoesNotReturnHangs :
    (at' (.cont (.enter 0 5))).seq = some (.cont (.enter 0 5)) ∧
    delayOutstanding { at' (.cont (.enter 0 5)) with delayReturns := false } = true ∧
    pendingDelay benchBuild (.cont (.enter 0 5)) = some 1 ∧ bench.delayReturns = true ∧
    pendingDelay benchBuild (.cont (.enter 0 0)) = none ∧ pendingDelay benchBuild (.tx (.gapDelay 0 1000)) = some 1000 ∧
    pendingDelay benchBuild (.tx (.leadDelay 0)) = some 0 ∧
    RefillPlace true .cont ∧ RefillPlace false (fun p => .beginTx (.refill p)) :=
  ⟨by decide, by decide, by decide, by decide, by decide, by decide, by decide, .cont, .ofBegin .beginTx⟩
theorem witness_TxPacesItsFrames :
    ((at' (.tx .start)).seq = some (.tx .start) ∧ productionBuild.paceMode = .production) ∧
    ((at' (.tx (.leadDelay 7))).seq = some (.tx (.leadDelay 7)) ∧
      0 < ({ at' (.tx (.leadDelay 7)) with lLen := 1#32 } : State).lLen.toNat) ∧
    (at' (.tx (.frame 0 1#8 (.last .idle)))).seq = some (.tx (.frame 0 1#8 (.last .idle))) ∧
    (at' (.tx (.gapDraw 0))).seq = some (.tx (.gapDraw 0)) ∧
    ((at' (.tx (.gapDelay 0 1000))).seq = some (.tx (.gapDelay 0 1000)) ∧
      0 + 1 < ({ at' (.tx (.gapDelay 0 1000)) with lLen := 2#32 } : State).lLen.toNat) := by decide
theorem witness_RandomDrawsCoverTheirRange : 0 < 2000 ∧ 8000 ≤ 11999 ∧ 11999 < 12000 := by decide
/-- Source byte 0 at 0x1FFF is admitted, at 0x2000 it is not. -/
theorem witness_SourceReadIsTakenOrFaults :
    sourceRead { at' (.beginTx (.fill [])) with lAddr := 0x1FFF#32, lLen := 1#32 } (.beginTx (.fill [])) = some 0x1FFF ∧
    admits benchBuild 0x1FFF = true ∧ sourceRead (at' (.tx (.read 0x2000))) (.tx (.read 0x2000)) = some 0x2000 ∧
    admits benchBuild 0x2000 = false := by decide
theorem witness_OnlySourceReadsCanFault :
    sourceRead (at' (.beginTx .flush)) (.beginTx .flush) = none ∧
    (nextOf (exec .beginTx (at' (.beginTx .flush)))).isSome = true ∧
    Instr.txByte ∈ [Instr.encode, .frame, .setPwr, .txByte, .contZ, .endTx] ∧
    (nextOf (exec .txByte (at' (.txByte (.first .flush))))).isSome = true := by decide
/-- The poll in each kind of place; a chunk with a byte to read, and one that is not the last and one that is, at a source's and a
PRN sequence's last byte. -/
theorem witness_RefillChunkIsWhatThePollReported :
    (RefillPlace true .cont ∧ (at' (.cont (.poll 0 20))).seq = some (.cont (.poll 0 20))) ∧
    (RefillPlace true .contZ ∧ (at' (.contZ (.poll 0 20))).seq = some (.contZ (.poll 0 20))) ∧
    (RefillPlace false (fun p => .beginTx (.refill p)) ∧
      (at' (.beginTx (.refill (.poll 64 1)))).seq = some (.beginTx (.refill (.poll 64 1)))) ∧
    (RefillPlace true (fun p => .tx (.frame 0 1#8 (.burst 29 p))) ∧
      (at' (.tx (.frame 0 1#8 (.burst 29 (.poll 0 64))))).seq = some (.tx (.frame 0 1#8 (.burst 29 (.poll 0 64))))) ∧
    ((at' (.cont (.chunk 0 3 2 [7#8]))).seq = some (.cont (.chunk 0 3 2 [7#8])) ∧ [7#8].length < 2 ∧
      admits benchBuild (0x1FFE + 0 + 1) = true) ∧
    ((at' (.rawTx (.stream (.refill (.chunk 64 3 1 [7#8]))))).seq = some (.rawTx (.stream (.refill (.chunk 64 3 1 [7#8])))) ∧
      [7#8].length = 1 ∧ 1 ≤ 3) ∧
    ((at' (.contZ (.chunk 0 2 2 []))).seq = some (.contZ (.chunk 0 2 2 [])) ∧ 2 ≤ 2) ∧
    ((at' (.txByte (.burst 29 (.chunk 60 4 4 [])))).seq = some (.txByte (.burst 29 (.chunk 60 4 4 []))) ∧ 60 + 4 ≤ 64) :=
  ⟨⟨.cont, rfl⟩, ⟨.contZ, rfl⟩, ⟨.ofBegin .beginTx, rfl⟩, ⟨.tx 0 1#8 29, rfl⟩, ⟨rfl, by decide, by decide⟩, ⟨rfl, by decide, by decide⟩,
    ⟨rfl, by decide⟩, ⟨rfl, by decide⟩⟩
/-- V-ST4: a chunk of CONT that is not the last writes its 15 bytes and leaves 5. -/
theorem test_cont_middle_write :
    (nextOf (exec .cont { at' (.cont (.chunk 0 20 15 (List.replicate 15 1#8))) with lLen := 20#32, sessRemaining := 20#32 })).map
      (fun t => (t.seq, t.sessWritten, t.sessRemaining, t.trace)) =
      some (some (.cont (.delay 15 5)), 15#32, 5#32, [.writeBuf (List.replicate 15 1#8)]) := by decide
theorem witness_CommandsLeaveOperandsAndMemory : (nextOf (exec .rawTx (at' (.rawTx (.stream .enter))))).isSome = true := by
  decide
theorem witness_CommandsLeaveOperandsAndMemory_hostWrite : ∃ t, step { bench with inputs := [.memWrite 5 1#8] } = .next t ∧
    Memory.read t.mem 5 ≠ Memory.read bench.mem 5 := by
  refine ⟨_, rfl, ?_⟩
  decide
theorem witness_FecKernelIsHex79_frame : frameWord 0x79#8 ≠ frameWord 0x00#8 ∧ fec 0x79#8 = fec 0x00#8 := by decide
theorem witness_StreamCommandsFrame :
    Instr.endTx ∈ [Instr.beginTx, .cont, .contZ, .endTx, .txByte, .tx, .rawTx] ∧
    (nextOf (exec .endTx (at' (.endTx .enter)))).isSome = true ∧
    (nextOf (exec .cont { at' (.cont (.enter 0 0)) with sessWritten := 1#32 })).map State.sessWritten = some 0#32 ∧
    (nextOf (exec .beginTx { at' (.beginTx .enter) with sessWritten := 1#32 })).map State.sessWritten = some 0#32 ∧
    (nextOf (exec .contZ { at' (.contZ (.enter 0 5)) with sessWritten := 1#32 })).map State.sessWritten = some 0#32 := by decide
theorem witness_ResultAndPowerWriters :
    (nextOf (step { at' .setPwr with lData := 0#8 })).map (fun t => (t.result, t.power)) = some (0x50#30, 0x50#8) ∧
    ((at' .setPwr).result, (at' .setPwr).power) = (0#30, 0x11#8) := by decide
theorem witness_ArgWritesDoNotReachTheRunningCommand :
    bench.fault = false ∧ bench.busy = false ∧ decodeWord 0x04#32 = .ok .tx ∧
    (nextOf (exec .encode { at' .encode with argData := 5#8 })).map State.result = some 0#30 := by decide
theorem witness_TraceGrowsByAtMostOneEvent :
    (nextOf (step (at' (.endTx .enter)))).map (fun t => t.trace.length) = some 1 ∧
    (nextOf (step { at' (.endTx .enter) with inputs := [.reset] })).map State.trace = some [] := by decide

theorem bench_sessionInv : SessionInv (at' (.cont (.enter 0 0))) := by
  intro q hq
  obtain rfl : Running.cont (.enter 0 0) = q := by simpa [at'] using hq
  exact .inl rfl

theorem witness_AppendedEventsAreAllowed : SessionInv { at' (.endTx .enter) with devIn := [0x7F#8] } ∧
    (nextOf (step { at' (.endTx .enter) with devIn := [0x7F#8] })).map State.trace = some ([] ++ [.strobe 0x3D#8 0x7F#8]) := by
  refine ⟨?_, by decide⟩
  intro q hq
  obtain rfl : Running.endTx .enter = q := by simpa [at'] using hq
  trivial

/-- The bench with a command at its first point meets the machine's invariant. -/
theorem at_first_inv (i : Instr) : Inv (at' (firstPoint 0 i)) where
  memCanonical := by cases i <;> decide
  busyIffRunning := by cases i <;> decide
  latchesName := by cases i <;> simp [at', firstPoint, Running.command, Instr.op, Instr.zf] <;> decide
  faultRecorded := by cases i <;> decide
  faultStops := by cases i <;> decide
  argAddrFits := by cases i <;> decide
  argLenFits := by cases i <;> decide
  lAddrFits := by cases i <;> decide
  lLenFits := by cases i <;> decide
  faultAddrFits := by cases i <;> decide
  writtenFits := by cases i <;> decide
  remainingFits := by cases i <;> decide
  lastDevSeen := by cases i <;> decide

theorem witness_StepKeepsInv : Inv (at' (firstPoint 0 .cont)) ∧ (nextOf (step (at' (firstPoint 0 .cont)))).isSome = true :=
  ⟨at_first_inv .cont, by decide⟩

/-- CONT after its first Delay, BEGIN after its first poll, a frame in its begin, in a burst and at its end, and RAWTX at its end meet
the counters' invariant. -/
theorem witness_StepKeepsSessionCounters :
    Inv (at' (firstPoint 0 .cont)) ∧ benchBuild.widthsOk = true ∧ SessionInv (at' (firstPoint 0 .cont)) ∧
    SessionInv { at' (.cont (.poll 0 5)) with lLen := 5#32, sessRemaining := 5#32 } ∧
    SessionInv { at' (.beginTx .flush) with lLen := 5#32, sessRemaining := 5#32 } ∧
    SessionInv { at' (.txByte (.burst 1 (.poll 0 64))) with sessRemaining := 64#32 } ∧
    SessionInv { at' (.txByte (.first .start)) with sessWritten := 64#32 } ∧
    SessionInv { at' (.rawTx (.close .enter)) with lLen := 5#32, sessWritten := 5#32 } ∧
    SessionInv { at' (.txByte (.last .idle)) with sessWritten := 64#32 } := by
  refine ⟨at_first_inv .cont, by decide, bench_sessionInv, ?_, ?_, ?_, ?_, ?_, ?_⟩
  · intro q hq
    obtain rfl : Running.cont (.poll 0 5) = q := by simpa [at'] using hq
    exact .inr ⟨rfl, by decide, rfl, rfl⟩
  · intro q hq
    obtain rfl : Running.beginTx .flush = q := by simpa [at'] using hq
    exact ⟨rfl, rfl⟩
  · intro q hq
    obtain rfl : Running.txByte (.burst 1 (.poll 0 64)) = q := by simpa [at'] using hq
    exact ⟨by decide, by decide, rfl, by decide, rfl, rfl⟩
  · intro q hq
    obtain rfl : Running.txByte (.first .start) = q := by simpa [at'] using hq
    exact ⟨rfl, rfl⟩
  · intro q hq
    obtain rfl : Running.rawTx (.close .enter) = q := by simpa [at'] using hq
    exact ⟨rfl, rfl⟩
  · intro q hq
    obtain rfl : Running.txByte (.last .idle) = q := by simpa [at'] using hq
    exact ⟨rfl, rfl⟩

/-- The states before the first write of BEGIN and before the IDLE strobe of END. -/
theorem witness_PhaseFollowsTheSession :
    PhaseInv { at' (.beginTx (.fill [])) with phase := .flushing } ∧
    (nextOf (step { at' (.beginTx (.fill [])) with phase := .flushing })).map State.phase = some .initialFill ∧
    PhaseInv { at' (.endTx .idle) with phase := .draining } ∧
    (nextOf (step { at' (.endTx .idle) with phase := .draining })).map State.phase = some .idle := by
  refine ⟨?_, by decide, ?_, by decide⟩
  · intro q hq
    obtain rfl : Running.beginTx (.fill []) = q := by simpa [at'] using hq
    rfl
  · intro q hq
    obtain rfl : Running.endTx .idle = q := by simpa [at'] using hq
    rfl
theorem witness_PhaseChangesOnlyWithItsEvent :
    (nextOf (step (at' (.contZ (.enter 0 1))))).map State.phase = some .streaming ∧
    (at' (.contZ (.enter 0 1))).phase = .idle := by decide
theorem witness_GoodEndIsNotBusyAndNotFaulted : Inv bench where
  memCanonical := by decide
  busyIffRunning := by decide
  latchesName := by simp [bench, State.reset]
  faultRecorded := by decide
  faultStops := by decide
  argAddrFits := by decide
  argLenFits := by decide
  lAddrFits := by decide
  lLenFits := by decide
  faultAddrFits := by decide
  writtenFits := by decide
  remainingFits := by decide
  lastDevSeen := by decide

/-! ### The launch premises (70_reset_and_hazards.md R127) -/

/-- END on a device that is drained at its first poll. -/
def endBench : State := { at' (.endTx .enter) with devIn := [0x7F#8, 0x0F#8] }
/-- The states of that run after its poll and after its IDLE strobe. -/
def endBench1 : State := microStep (.endTx .enter) endBench
def endBench2 : State := microStep (.endTx .idle) endBench1

theorem endBench_reaches {u : State} (h : Reaches endBench u) : u = endBench ∨ u = endBench1 ∨ u = endBench2 := by
  rcases h.cases_step (step_of_seq rfl rfl : step endBench = .next endBench1) with rfl | h
  · exact .inl rfl
  · rcases h.cases_step (step_of_seq rfl rfl : step endBench1 = .next endBench2) with rfl | h
    · exact .inr (.inl rfl)
    · exact .inr (.inr (h.waiting rfl rfl))

theorem witness_CommandsEndWhereDeviceAndTimerAreLive :
    endBench.inputs = [] ∧ endBench.seq = some (.endTx .enter) ∧ deviceLive endBench ∧ timerLive endBench := by
  refine ⟨rfl, rfl, ?_, ?_⟩
  · intro u q w h hq hw
    rcases endBench_reaches h with rfl | rfl | rfl
    · obtain rfl : Running.endTx .enter = q := Option.some.inj hq
      obtain rfl : Wait.drained = w := Option.some.inj hw
      exact ⟨0, by decide⟩
    · obtain rfl : Running.endTx .idle = q := Option.some.inj hq
      simp [awaits, endAwaits] at hw
    · simp [endBench2, microStep, endStep, complete] at hq
  · exact timerLive_of_returning rfl rfl

/-- A run without CMD writes keeps the framing, and END, which reads no host memory, needs no buffer for boot_done. -/
theorem test_end_run_premises : framedSession endBench ∧ bootDone endBench := by
  refine ⟨fun u h => ?_, rfl, witness_CommandsEndWhereDeviceAndTimerAreLive.2.2.2, by decide, fun u h hu => ?_⟩
  · rcases endBench_reaches h with rfl | rfl | rfl <;> decide
  · rcases endBench_reaches h with rfl | rfl | rfl <;> exact absurd hu (by decide)

/-- BEGIN, reset, BEGIN keeps the framing, BEGIN, reset, CONT does not: reset closes the session. -/
theorem test_reset_closes_session :
    framedMove { resetEvent { bench with phase := .streaming } with inputs := [.store 0x00 4 0x06#32] } = true ∧
    framedMove { resetEvent { bench with phase := .streaming } with inputs := [.store 0x00 4 0x07#32] } = false ∧
    framedMove { bench with phase := .streaming, inputs := [.store 0x00 4 0x06#32] } = false ∧
    framedMove { bench with phase := .streaming, inputs := [.store 0x00 4 0x07#32] } = true := by decide

/-- A refill of the buffer between two CONTs breaks no duty: its bytes are in use only while CONT is BUSY. -/
theorem test_buffer_in_use_while_busy :
    inUse { at' (.cont (.poll 0 2)) with lAddr := 0x10#32, lLen := 2#32 } 0x11 = true ∧
    inUse { at' (.cont (.poll 0 2)) with lAddr := 0x10#32, lLen := 2#32 } 0x12 = false ∧
    inUse { bench with phase := .streaming, lAddr := 0x10#32, lLen := 2#32 } 0x11 = false ∧
    inUse { at' (.contZ (.poll 0 2)) with lAddr := 0x10#32, lLen := 2#32 } 0x11 = false := by decide

/-- A host write while no command is BUSY leaves the buffer stable, whatever it changes. -/
theorem test_idle_refill_is_stable : bufferStable 0 4 { bench with inputs := [.memWrite 1 9#8] } := by
  intro u t x h _ _ _ hu
  rcases h.cases_step (rfl : step { bench with inputs := [.memWrite 1 9#8] } = .next { bench with mem := [(1, 9#8)] }) with rfl | h
  · simp [inUse, sourceInUse, bench, State.reset] at hu
  · obtain rfl := h.waiting rfl rfl
    simp [inUse, sourceInUse, bench, State.reset] at hu

/-- CONT before its first Delay, while the timing service does not return from delays. -/
def hungBench (moves : List Input) : State := { at' (.cont (.enter 0 5)) with delayReturns := false, inputs := moves }

/-- A Delay that returns once the timing service runs keeps timer_live: before the sequencer's turn, and after a turn that hung. -/
theorem test_late_timer_is_live : timerLive (hungBench [.timer true]) ∧ returnsWithin 3 (hungBench [.turn, .timer true]) = true := by
  refine ⟨fun u h hm ho => ?_, by decide⟩
  rcases h.cases_step (rfl : step (hungBench [.timer true]) = .next { hungBench [] with delayReturns := true }) with rfl | h
  · exact absurd hm (by decide)
  · exact timerLive_of_returning rfl rfl u h hm ho

/-- A Delay that never returns breaks timer_live, and so does one that only a reset ends. -/
theorem test_hung_delay_is_not_live : ¬ timerLive (hungBench []) ∧ returnsWithin 9 (hungBench [.turn, .reset, .timer true]) = false := by
  refine ⟨fun h => ?_, by decide⟩
  obtain ⟨n, hn⟩ := h _ (Reaches.refl _) (by decide) (by decide)
  exact absurd ((returnsWithin_hung (by decide) rfl n).symm.trans hn) (by decide)

/-- boot_done needs the buffer of the running command readable (R115 step 4): RAWTX of a byte at 0x2000 does not have it. -/
theorem test_boot_needs_readable_buffer : ¬ bootDone { at' (.rawTx (.stream .enter)) with lAddr := 0x2000#32, lLen := 1#32 } := by
  intro h
  exact absurd (h.2.2.2 _ (Reaches.refl _) (by decide) 0 (by decide)) (by decide)

end Sys2Proof.Tests
end

section
/-! SUPPORT. The state of LSTX (10_state.md): the host's accesses to CMD and STATUS, the fields of the STATUS word, what a step does to FAULT, and the ARG registers beside the running command. -/

namespace Sys2Proof.Machine

/-! ### The host register block at the offsets of CMD and STATUS (10_state.md R6) -/

theorem hostStore_cmd (w : Word) (s : State) : hostStore 0x00 4 w s = .next (cmdWrite w s) := rfl

theorem hostStore_status (v : Word) (s : State) : hostStore 0x04 4 v s = .next s := rfl

theorem hostLoad_status (s : State) : hostLoad 0x04 4 s = .next { s with busData := s.statusWord } := rfl

theorem cmdWrite_of_fault {s : State} (h : s.fault = true) (w : Word) : cmdWrite w s = s := by
  simp [cmdWrite, h]

theorem cmdWrite_of_decoded {s : State} {w : Word} {i : Instr} (hf : s.fault = false) (hb : s.busy = false)
    (hw : decodeWord w = .ok i) : cmdWrite w s = accept w i s := by
  simp [cmdWrite, hf, hb, hw]

/-! ### The STATUS word, field by field (10_state.md R8 to R13) -/

theorem statusWord_busy (s : State) : s.statusWord.getLsbD 0 = s.busy := by
  unfold State.statusWord
  rw [BitVec.getLsbD_append, if_pos (by decide)]
  simp

theorem statusWord_fault (s : State) : s.statusWord.getLsbD 1 = s.fault := by
  unfold State.statusWord
  rw [BitVec.getLsbD_append, if_neg (by decide), BitVec.getLsbD_append, if_pos (by decide)]
  simp

theorem statusWord_phase (s : State) : s.statusWord.extractLsb' 2 3 = phaseCode s.phase := by
  unfold State.statusWord
  iterate 2 rw [BitVec.extractLsb'_append_eq_of_le (by decide)]
  exact BitVec.extractLsb'_append_eq_right

theorem statusWord_err (s : State) : s.statusWord.extractLsb' 8 3 = errCode s.err := by
  unfold State.statusWord
  iterate 4 rw [BitVec.extractLsb'_append_eq_of_le (by decide)]
  exact BitVec.extractLsb'_append_eq_right

theorem statusWord_lastDev (s : State) : s.statusWord.extractLsb' 16 8 = s.lastDev := by
  unfold State.statusWord
  iterate 6 rw [BitVec.extractLsb'_append_eq_of_le (by decide)]
  exact BitVec.extractLsb'_append_eq_right

/-- The reserved bits [7:5], [15:11] and [31:24] (R13). -/
theorem statusWord_reserved (s : State) {k : Nat} (hk : 5 ≤ k ∧ k < 8 ∨ 11 ≤ k ∧ k < 16 ∨ 24 ≤ k) :
    s.statusWord.getLsbD k = false := by
  unfold State.statusWord
  obtain hk | hk | hk := hk
  · iterate 3 rw [BitVec.getLsbD_append, if_neg (by omega)]
    rw [BitVec.getLsbD_append, if_pos (by omega), BitVec.getLsbD_zero]
  · iterate 5 rw [BitVec.getLsbD_append, if_neg (by omega)]
    rw [BitVec.getLsbD_append, if_pos (by omega), BitVec.getLsbD_zero]
  · iterate 7 rw [BitVec.getLsbD_append, if_neg (by omega)]
    rw [BitVec.getLsbD_zero]

/-- Settles O13: a load of STATUS puts `statusWord` on the bus, whose fields are as R8 to R13 lay them out. -/
theorem statusWordLayout : Obligations.StatusWordLayout := by
  intro s
  refine ⟨{ s with busData := s.statusWord }, hostLoad_status s, rfl, statusWord_busy s, statusWord_fault s,
    ?_, ?_, statusWord_lastDev s, fun k hk => statusWord_reserved s ?_⟩
  · refine ⟨?_, ?_, ?_, ?_, ?_⟩ <;> intro h <;> exact (statusWord_phase s).trans (congrArg phaseCode h)
  · refine ⟨?_, ?_, ?_, ?_⟩ <;> intro h <;> exact (statusWord_err s).trans (congrArg errCode h)
  · revert k
    decide

/-! ### What a step does to FAULT (10_state.md R9, 60_exceptions.md R97) -/

@[simp] theorem cmdWrite_fault (w : Word) (s : State) : (cmdWrite w s).fault = s.fault := by
  unfold cmdWrite
  split
  · rfl
  · split
    · rfl
    · split <;> rfl

@[simp] theorem writeReg_fault (v : Word) (s : State) (r : Reg) : (writeReg v s r).fault = s.fault := by
  cases r with
  | cmd => exact cmdWrite_fault v s
  | _ => rfl

theorem SilentUpd.fault_eq {s t : State} (h : SilentUpd s t) : t.fault = s.fault := by
  induction h with
  | refl => rfl
  | goto _ _ ih => exact ih
  | setPhase _ _ ih => exact ih
  | openCount _ _ ih => exact ih
  | complete _ ih => exact ih

theorem EventUpd.fault_eq {s u : State} {e : Event} (h : EventUpd s e u) : u.fault = s.fault := by
  cases h <;> rfl

/-- A move leaves FAULT as it is, or it is the MemFault of an address that is not admitted. -/
def KeepsOrRaisesFault (s t : State) : Prop :=
  t.fault = s.fault ∨ ∃ a, admits s.build a = false ∧ t = raiseMemFault a s

theorem StepShape.keepsOrRaisesFault {s t : State} (h : StepShape s t) : KeepsOrRaisesFault s t := by
  cases h with
  | hang => exact .inl rfl
  | fault a ha => exact .inr ⟨a, ha, rfl⟩
  | silent h => exact .inl h.fault_eq
  | event h k => exact .inl (k.fault_eq.trans h.fault_eq)

theorem microStep_keepsOrRaisesFault (q : Running) (s : State) : KeepsOrRaisesFault s (microStep q s) := by
  cases hq : q.writesResult with
  | false => exact (shape_microStep hq s).keepsOrRaisesFault
  | true =>
    cases q with
    | encode => exact .inl rfl
    | frame => exact .inl rfl
    | setPwr => exact .inl rfl
    | _ => cases hq

theorem runSequencer_keepsOrRaisesFault {s t : State} (h : runSequencer s = .next t) : KeepsOrRaisesFault s t := by
  rw [runSequencer_eq] at h
  cases hq : s.seq with
  | none =>
    obtain rfl : s = t := by simpa [hq] using h
    exact .inl rfl
  | some q =>
    obtain rfl : microStep q s = t := by simpa [hq] using h
    exact microStep_keepsOrRaisesFault q s

theorem hostStore_fault {s t : State} {off width : Nat} {v : Word} (h : hostStore off width v s = .next t) :
    t.fault = s.fault := by
  unfold hostStore at h
  split at h
  · split at h
    · cases h; exact writeReg_fault v s _
    · cases h
  · cases h

theorem hostLoad_fault {s t : State} {off width : Nat} (h : hostLoad off width s = .next t) : t.fault = s.fault := by
  unfold hostLoad at h
  split at h
  · split at h <;> cases h; rfl
  · cases h

theorem hostMemWrite_fault {s t : State} {a : Nat} {v : Byte} (h : hostMemWrite a v s = .next t) :
    t.fault = s.fault := by
  unfold hostMemWrite at h
  split at h <;> cases h
  rfl

theorem takeInput_keepsOrRaisesFault {s t : State} {i : Input} (hi : i ≠ .reset) (h : takeInput s i = .next t) :
    KeepsOrRaisesFault s t := by
  cases i with
  | turn => exact runSequencer_keepsOrRaisesFault h
  | store off width v => exact .inl (hostStore_fault h)
  | load off width => exact .inl (hostLoad_fault h)
  | wait => cases h; exact .inl rfl
  | memWrite a v => exact .inl (hostMemWrite_fault h)
  | reset => exact absurd rfl hi
  | timer returns => cases h; exact .inl rfl

/-- A step is the reset step, or it leaves FAULT as it is but for a MemFault, its pending input taken. -/
theorem step_reset_or_keepsOrRaisesFault {s t : State} (h : step s = .next t) :
    (∃ rest, s.inputs = .reset :: rest ∧ t.fault = false) ∨
    KeepsOrRaisesFault { s with inputs := s.inputs.tail } t := by
  obtain ⟨hi, h⟩ | ⟨i, rest, hi, h⟩ := step_cases h
  · have hs : { s with inputs := s.inputs.tail } = s := by rw [hi, List.tail_nil, ← hi]
    rw [hs]
    exact .inr (runSequencer_keepsOrRaisesFault h)
  · by_cases hr : i = .reset
    · subst hr; cases h
      exact .inl ⟨rest, hi, rfl⟩
    · exact .inr (by rw [hi]; exact takeInput_keepsOrRaisesFault hr h)

/-- Settles O8: of the moves of a step only an unadmitted MemRead sets FAULT and only reset clears it. -/
theorem faultSetOnlyByMemFaultClearedOnlyByReset : Obligations.FaultSetOnlyByMemFaultClearedOnlyByReset := by
  refine ⟨fun s t h hs ht => ?_, fun s t h hs ht => ?_, fun s v => hostStore_status v s, fun s w hf => ?_⟩
  · obtain ⟨_, _, hc⟩ | hc | hr := step_reset_or_keepsOrRaisesFault h
    · simp [hc] at ht
    · simp [hc, hs] at ht
    · exact hr
  · obtain ⟨rest, hi, _⟩ | hc | ⟨a, _, rfl⟩ := step_reset_or_keepsOrRaisesFault h
    · exact ⟨rest, hi⟩
    · simp [hc, hs] at ht
    · simp at ht
  · rw [hostStore_cmd, cmdWrite_of_fault hf]

/-! ### The ARG registers are no operands of a running command (10_state.md R21) -/

/-- The same state with other values in the ARG registers. -/
def setArgs (d : Byte) (a l : Word) (s : State) : State := { s with argData := d, argAddr := a, argLen := l }

/-- An operation that neither reads nor writes an ARG register. -/
def IgnoresArgs (f : State → State) : Prop := ∀ d a l s, f (setArgs d a l s) = setArgs d a l (f s)

section
variable (d : Byte) (a l : Word) (s : State)

@[simp] theorem setArgs_build : (setArgs d a l s).build = s.build := rfl
@[simp] theorem setArgs_mem : (setArgs d a l s).mem = s.mem := rfl
@[simp] theorem setArgs_delayReturns : (setArgs d a l s).delayReturns = s.delayReturns := rfl
@[simp] theorem setArgs_opLength : (setArgs d a l s).opLength = s.opLength := rfl

end

theorem ignoresArgs_goto (q : Running) : IgnoresArgs (goto q) := fun _ _ _ _ => rfl
theorem ignoresArgs_setPhase (p : Phase) : IgnoresArgs (setPhase p) := fun _ _ _ _ => rfl
theorem ignoresArgs_complete : IgnoresArgs complete := fun _ _ _ _ => rfl
theorem ignoresArgs_emit (e : Event) : IgnoresArgs (emit e) := fun _ _ _ _ => rfl
theorem ignoresArgs_strobe (c : Byte) : IgnoresArgs (strobe c) := fun _ _ _ _ => rfl
theorem ignoresArgs_writeBuf (n : Nat) (bs : List Byte) : IgnoresArgs (writeBuf n bs) := fun _ _ _ _ => rfl
theorem ignoresArgs_writeZeros (n : Nat) : IgnoresArgs (writeZeros n) := fun _ _ _ _ => rfl
theorem ignoresArgs_raiseMemFault (x : Nat) : IgnoresArgs (raiseMemFault x) := fun _ _ _ _ => rfl

theorem IgnoresArgs.comp {f g : State → State} (hg : IgnoresArgs g) (hf : IgnoresArgs f) :
    IgnoresArgs (fun s => g (f s)) := by
  intro d a l s
  simp only [hf d a l s, hg d a l (f s)]

theorem IgnoresArgs.ite {p : Prop} [Decidable p] {f g : State → State} (hf : IgnoresArgs f) (hg : IgnoresArgs g) :
    IgnoresArgs (if p then f else g) := by
  split
  · exact hf
  · exact hg

theorem ignoresArgs_markFill (buf : List Byte) : IgnoresArgs (markFill buf) := by
  intro d a l s
  unfold markFill
  split <;> rfl

theorem ignoresArgs_refillOpen (restart : Bool) (rem : Nat) : IgnoresArgs (refillOpen restart rem) := by
  intro d a l s
  cases restart <;> rfl

theorem ignoresArgs_txGap (i : Nat) : IgnoresArgs (txGap i) := by
  intro d a l s
  unfold txGap
  rw [setArgs_build]
  split <;> rfl

theorem ignoresArgs_txNext (i : Nat) : IgnoresArgs (txNext i) := by
  intro d a l s
  unfold txNext
  rw [setArgs_opLength]
  split <;> rfl

theorem ignoresArgs_delayThen (ms : Nat) {after : State → State} (h : IgnoresArgs after) :
    IgnoresArgs (delayThen ms after) := by
  intro d a l s
  unfold delayThen
  rw [setArgs_delayReturns]
  split
  · exact h.comp (ignoresArgs_emit _) d a l s
  · rfl

theorem ignoresArgs_memReadThen (x : Nat) {after : Byte → State → State} (h : ∀ v, IgnoresArgs (after v)) :
    IgnoresArgs (memReadThen x after) := by
  intro d a l s
  unfold memReadThen
  rw [setArgs_build, setArgs_mem]
  split
  · exact (h _).comp (ignoresArgs_emit _) d a l s
  · exact ignoresArgs_raiseMemFault x d a l s

theorem ignoresArgs_chunkStep (src : Src) (off n : Nat) (buf : List Byte) {onRead : List Byte → State → State}
    {onWrite : State → State} (hr : ∀ b, IgnoresArgs (onRead b)) (hw : IgnoresArgs onWrite) :
    IgnoresArgs (chunkStep src off n buf onRead onWrite) := by
  intro d a l s
  cases src with
  | zero => exact hw.comp (ignoresArgs_writeZeros n) d a l s
  | rom t => exact hw.comp (ignoresArgs_writeBuf n _) d a l s
  | mem base =>
    simp only [chunkStep]
    split
    · exact ignoresArgs_memReadThen _ (fun v => hr _) d a l s
    · exact hw.comp (ignoresArgs_writeBuf n buf) d a l s

theorem ignoresArgs_refillStep (src : Src) (restart : Bool) (at' : RefillPoint → Running) {after : State → State}
    (h : IgnoresArgs after) (p : RefillPoint) : IgnoresArgs (refillStep src restart at' after p) := by
  intro d a l s
  cases p with
  | enter off rem =>
    exact ignoresArgs_delayThen _ ((ignoresArgs_goto _).comp (ignoresArgs_refillOpen restart rem)) d a l s
  | delay off rem => exact ignoresArgs_delayThen _ (ignoresArgs_goto _) d a l s
  | poll off rem => rfl
  | chunk off rem n buf =>
    simp only [refillStep]
    exact ignoresArgs_chunkStep _ _ _ _ (fun _ => ignoresArgs_goto _) (.ite h (ignoresArgs_goto _)) d a l s

theorem ignoresArgs_beginStep (src : Src) (len : Nat) (at' : BeginPoint → Running) {after : State → State}
    (h : IgnoresArgs after) (p : BeginPoint) : IgnoresArgs (beginStep src len at' after p) := by
  intro d a l s
  cases p with
  | enter => rfl
  | idleWait => rfl
  | flush => rfl
  | fill buf =>
    simp only [beginStep]
    exact ignoresArgs_chunkStep _ _ _ _ (fun _ => (ignoresArgs_goto _).comp (ignoresArgs_markFill buf))
      ((ignoresArgs_goto _).comp (ignoresArgs_markFill buf)) d a l s
  | start =>
    simp only [beginStep]
    exact IgnoresArgs.comp (.ite h (ignoresArgs_goto _)) (ignoresArgs_strobe _) d a l s
  | oscWait => rfl
  | refill p => simp only [beginStep]; exact ignoresArgs_refillStep _ _ _ h p d a l s

theorem ignoresArgs_endStep (at' : EndPoint → Running) {after : State → State} (h : IgnoresArgs after) (p : EndPoint) :
    IgnoresArgs (endStep at' after p) := by
  intro d a l s
  cases p with
  | enter => rfl
  | drainWait => rfl
  | idle => exact h.comp ((ignoresArgs_setPhase .idle).comp (ignoresArgs_strobe _)) d a l s

theorem ignoresArgs_frameStep (b : Byte) (at' : FramePoint → Running) {after : State → State} (h : IgnoresArgs after)
    (p : FramePoint) : IgnoresArgs (frameStep b at' after p) := by
  intro d a l s
  cases p with
  | first p => exact ignoresArgs_beginStep _ _ _ (ignoresArgs_goto _) p d a l s
  | burst k p => simp only [frameStep]; exact ignoresArgs_refillStep _ _ _ (ignoresArgs_goto _) p d a l s
  | last p => exact ignoresArgs_endStep _ h p d a l s

theorem ignoresArgs_txRead (i : Nat) : IgnoresArgs (txRead i) := fun d a l s =>
  ignoresArgs_memReadThen (s.opBase + i) (fun _ => ignoresArgs_goto _) d a l s

theorem ignoresArgs_txStart : IgnoresArgs txStart := by
  intro d a l s
  unfold txStart
  rw [setArgs_build, setArgs_opLength]
  split
  · rfl
  · split
    · exact ignoresArgs_txRead 0 d a l s
    · rfl

theorem ignoresArgs_txStep (p : TxPoint) : IgnoresArgs (txStep p) := by
  intro d a l s
  cases p with
  | start => exact ignoresArgs_txStart d a l s
  | leadDelay r0 => exact ignoresArgs_delayThen _ (ignoresArgs_txNext 0) d a l s
  | read i => exact ignoresArgs_txRead i d a l s
  | frame i b p => simp only [txStep]; exact ignoresArgs_frameStep _ _ (ignoresArgs_txGap i) p d a l s
  | gapDraw i => rfl
  | gapDelay i ms => exact ignoresArgs_delayThen _ (ignoresArgs_txNext (i + 1)) d a l s

theorem ignoresArgs_rawStep (p : RawPoint) : IgnoresArgs (rawStep p) := by
  intro d a l s
  cases p with
  | stream p => exact ignoresArgs_beginStep (.mem s.opBase) s.opLength _ (ignoresArgs_goto _) p d a l s
  | close p => exact ignoresArgs_endStep _ ignoresArgs_complete p d a l s

theorem ignoresArgs_contStep (src : Src) (at' : RefillPoint → Running) (p : RefillPoint) :
    IgnoresArgs (contStep src at' p) := by
  intro d a l s
  unfold contStep
  split
  · rfl
  · exact ignoresArgs_refillStep src true at' ignoresArgs_complete p d a l s

/-- The running command reads its operands from the latches alone. -/
theorem ignoresArgs_microStep (q : Running) : IgnoresArgs (microStep q) := by
  intro d a l s
  cases q with
  | encode => rfl
  | frame => rfl
  | setPwr => rfl
  | txByte p => exact ignoresArgs_frameStep s.opData _ ignoresArgs_complete p d a l s
  | tx p => exact ignoresArgs_txStep p d a l s
  | rawTx p => exact ignoresArgs_rawStep p d a l s
  | beginTx p => exact ignoresArgs_beginStep (.mem s.opBase) s.opLength _ ignoresArgs_complete p d a l s
  | cont p => exact ignoresArgs_contStep (.mem s.opBase) _ p d a l s
  | contZ p => exact ignoresArgs_contStep .zero _ p d a l s
  | endTx p => exact ignoresArgs_endStep _ ignoresArgs_complete p d a l s

/-- Whether exec faults depends on SEQ alone, and there is one fault. -/
theorem exec_fault_of_seq_eq {i : Instr} {s u : State} {r : Fault} (hq : u.seq = s.seq) (h : exec i s = .fault r) :
    exec i u = .fault r := by
  cases hu : exec i u with
  | next t =>
    obtain ⟨q, hs, rfl, -⟩ := exec_next hu
    rw [exec_of_seq (hq ▸ hs)] at h
    cases h
  | fault r' => rfl
  | refused r' => exact absurd hu (exec_ne_refused i u r')

theorem exec_setArgs (i : Instr) (d : Byte) (a l : Word) (s : State) :
    exec i (setArgs d a l s) =
      match exec i s with
      | .next t => .next (setArgs d a l t)
      | .fault r => .fault r
      | .refused r => .refused r := by
  cases h : exec i s with
  | next t =>
    obtain ⟨q, hq, rfl, rfl⟩ := exec_next h
    exact (exec_of_seq (s := setArgs d a l s) hq).trans (congrArg _ (ignoresArgs_microStep q d a l s))
  | fault r => exact exec_fault_of_seq_eq (s := s) rfl h
  | refused r => exact absurd h (exec_ne_refused i s r)

/-! ### No host load shows a latch (10_state.md R21) -/

/-- The same state with other values in the latches. -/
def setLatches (o : BitVec 4) (z : Bool) (d : Byte) (a l : Word) (s : State) : State :=
  { s with lOp := o, lZf := z, lData := d, lAddr := a, lLen := l }

theorem readReg_setLatches (o : BitVec 4) (z : Bool) (d : Byte) (a l : Word) (s : State) (r : Reg) :
    readReg (setLatches o z d a l s) r = readReg s r := by
  cases r <;> rfl

theorem hostLoad_setLatches (off width : Nat) (o : BitVec 4) (z : Bool) (d : Byte) (a l : Word) (s : State) :
    hostLoad off width (setLatches o z d a l s) =
      match hostLoad off width s with
      | .next t => .next (setLatches o z d a l t)
      | .fault r => .fault r
      | .refused r => .refused r := by
  unfold hostLoad
  split
  · split
    · simp only [readReg_setLatches]; rfl
    · rfl
  · rfl

/-- Settles O50: acceptance is `accept`, the registers of the block hold no latch, and no micro step reads an ARG register. -/
theorem argWritesDoNotReachTheRunningCommand : Obligations.ArgWritesDoNotReachTheRunningCommand := by
  refine ⟨fun s w i hf hb hw => ?_, fun s off width o z d a l => hostLoad_setLatches off width o z d a l s,
    fun i s d a l => exec_setArgs i d a l s⟩
  exact ⟨accept w i s, by rw [hostStore_cmd, cmdWrite_of_decoded hf hb hw], rfl, rfl, rfl, rfl, rfl⟩

end Sys2Proof.Machine
end

section
/-! SUPPORT. Host memory and the register block (20_memory.md): which accesses the block admits, what a read sees after a write elsewhere, and that only the host's own write changes host memory. -/

namespace Sys2Proof.Machine

/-! ### Which accesses the register block admits (R30, R31) -/

/-- The offsets without a register are those past FAULT_ADDR and those off the 4-byte grid. -/
theorem regAt_eq_none_iff {off : Nat} : regAt off = none ↔ 0x24 < off ∨ off % 4 ≠ 0 := by
  rw [regAt, List.lookup_eq_none_iff]
  simp only [List.forall_mem_cons, bne_iff_ne, List.not_mem_nil, false_implies, implies_true, and_true]
  omega

theorem exists_regAt {off : Nat} (hle : off ≤ 0x24) (hal : off % 4 = 0) : ∃ r, regAt off = some r := by
  rw [← Option.ne_none_iff_exists', ne_eq, regAt_eq_none_iff]
  omega

theorem hostStore_of_regAt {off : Nat} {r : Reg} (h : regAt off = some r) (v : Word) (s : State) :
    hostStore off 4 v s = .next (writeReg v s r) := by
  simp [hostStore, h]

theorem hostLoad_of_regAt {off : Nat} {r : Reg} (h : regAt off = some r) (s : State) :
    hostLoad off 4 s = .next { s with busData := readReg s r } := by
  simp [hostLoad, h]

theorem hostStore_refused {off width : Nat} (h : width ≠ 4 ∨ regAt off = none) (v : Word) (s : State) :
    ∃ r, hostStore off width v s = .refused r := by
  by_cases hw : width = 4
  · exact ⟨.registerOffset off, by simp [hostStore, hw, h.resolve_left (absurd hw)]⟩
  · exact ⟨.registerWidth width, by simp [hostStore, hw]⟩

theorem hostLoad_refused {off width : Nat} (h : width ≠ 4 ∨ regAt off = none) (s : State) :
    ∃ r, hostLoad off width s = .refused r := by
  by_cases hw : width = 4
  · exact ⟨.registerOffset off, by simp [hostLoad, hw, h.resolve_left (absurd hw)]⟩
  · exact ⟨.registerWidth width, by simp [hostLoad, hw]⟩

/-- Settles O16: an access is admitted exactly when it is 4 bytes wide and its offset names a register. -/
theorem unadmittedRegisterAccessesAreRefused : Obligations.UnadmittedRegisterAccessesAreRefused := by
  intro s off width v
  refine ⟨fun h => ?_, ?_⟩
  · rw [← regAt_eq_none_iff] at h
    exact ⟨hostStore_refused h v s, hostLoad_refused h s⟩
  · rintro ⟨rfl, hle, hal⟩
    obtain ⟨r, hr⟩ := exists_regAt hle hal
    exact ⟨⟨_, hostStore_of_regAt hr v s⟩, ⟨_, hostLoad_of_regAt hr s⟩⟩

/-- Settles O15: the six read-only offsets name registers whose store is the identity, and CMD loads as 0. -/
theorem readOnlyRegistersIgnoreStores : Obligations.ReadOnlyRegistersIgnoreStores := by
  refine fun s => ⟨fun off v hoff => ?_, hostLoad_of_regAt (r := .cmd) rfl s⟩
  simp only [List.mem_cons, List.not_mem_nil, or_false] at hoff
  obtain rfl | rfl | rfl | rfl | rfl | rfl := hoff
  · exact hostStore_of_regAt (r := .status) rfl v s
  · exact hostStore_of_regAt (r := .result) rfl v s
  · exact hostStore_of_regAt (r := .power) rfl v s
  · exact hostStore_of_regAt (r := .sessWritten) rfl v s
  · exact hostStore_of_regAt (r := .sessRemaining) rfl v s
  · exact hostStore_of_regAt (r := .faultAddr) rfl v s

/-! ### Who changes host memory (R39) -/

theorem Memory.read_write_of_ne {a b : Nat} (h : b ≠ a) (v : Byte) :
    ∀ m : List Host.Cell, Memory.read (Memory.write m a v) b = Memory.read m b
  | [] => by
    unfold Memory.write
    split <;> simp [Memory.read, h]
  | (c, u) :: cs => by
    unfold Memory.write
    split
    · split <;> simp [Memory.read, h]
    · split
      · subst c
        split <;> simp [Memory.read, h]
      · simp [Memory.read, Memory.read_write_of_ne h v cs]

/-- Up to RESULT and POWER, which ENCODE, FRAME and SETPWR write, no micro step touches an operand, a parameter, host
memory or what comes from outside. -/
theorem microStep_untouched (q : Running) (s : State) :
    Untouched s { microStep q s with result := s.result, power := s.power } := by
  cases hq : q.writesResult with
  | false =>
    have h := (shape_microStep hq s).untouched
    exact { h with result := rfl, power := rfl }
  | true =>
    cases q with
    | encode => constructor <;> rfl
    | frame => constructor <;> rfl
    | setPwr => constructor <;> rfl
    | _ => cases hq

theorem runSequencer_mem {s t : State} (h : runSequencer s = .next t) : t.mem = s.mem := by
  rw [runSequencer_eq] at h
  cases h
  cases s.seq with
  | none => rfl
  | some q => exact (microStep_untouched q s).mem

@[simp] theorem cmdWrite_mem (w : Word) (s : State) : (cmdWrite w s).mem = s.mem := by
  unfold cmdWrite
  split
  · rfl
  · split
    · rfl
    · split <;> rfl

@[simp] theorem writeReg_mem (v : Word) (s : State) (r : Reg) : (writeReg v s r).mem = s.mem := by
  cases r with
  | cmd => exact cmdWrite_mem v s
  | _ => rfl

theorem hostStore_mem {s t : State} {off width : Nat} {v : Word} (h : hostStore off width v s = .next t) :
    t.mem = s.mem := by
  unfold hostStore at h
  split at h
  · split at h <;> cases h
    exact writeReg_mem v s _
  · cases h

theorem hostLoad_mem {s t : State} {off width : Nat} (h : hostLoad off width s = .next t) : t.mem = s.mem := by
  unfold hostLoad at h
  split at h
  · split at h <;> cases h
    rfl
  · cases h

theorem hostMemWrite_mem {s t : State} {a : Nat} {v : Byte} (h : hostMemWrite a v s = .next t) :
    t.mem = Memory.write s.mem a v := by
  unfold hostMemWrite at h
  split at h <;> cases h
  rfl

/-- Of the pending moves only the host's memory write changes host memory. -/
theorem takeInput_mem {s t : State} {i : Input} (h : takeInput s i = .next t) :
    t.mem = s.mem ∨ ∃ a v, i = .memWrite a v ∧ t.mem = Memory.write s.mem a v := by
  cases i with
  | turn => exact .inl (runSequencer_mem h)
  | store off width v => exact .inl (hostStore_mem h)
  | load off width => exact .inl (hostLoad_mem h)
  | wait => cases h; exact .inl rfl
  | memWrite a v => exact .inr ⟨a, v, rfl, hostMemWrite_mem h⟩
  | reset => cases h; exact .inl rfl
  | timer returns => cases h; exact .inl rfl

theorem step_mem {s t : State} (h : step s = .next t) :
    t.mem = s.mem ∨ ∃ a v rest, s.inputs = .memWrite a v :: rest ∧ t.mem = Memory.write s.mem a v := by
  obtain ⟨-, h⟩ | ⟨i, rest, hi, h⟩ := step_cases h
  · exact .inl (runSequencer_mem h)
  · obtain hm | ⟨a, v, rfl, hm⟩ := takeInput_mem h
    · exact .inl hm
    · exact .inr ⟨a, v, rest, hi, hm⟩

/-- Settles O47: a step changes host memory by `Memory.write` alone, which changes no other byte, and exec answers a
micro step. -/
theorem commandsLeaveOperandsAndMemory : Obligations.CommandsLeaveOperandsAndMemory := by
  refine ⟨fun s t a h ha => ?_, fun i s t h => ?_⟩
  · obtain hm | ⟨b, v, rest, hi, hm⟩ := step_mem h
    · exact absurd (by rw [hm]) ha
    · by_cases hab : a = b
      · exact hab ▸ ⟨v, rest, hi⟩
      · exact absurd (by rw [hm, Memory.read_write_of_ne hab]) ha
  · obtain ⟨q, -, -, rfl⟩ := exec_next h
    have hu := microStep_untouched q s
    have hmem : (microStep q s).mem = s.mem := hu.mem
    exact ⟨hu.argData, hu.argAddr, hu.argLen, hu.lOp, hu.lZf, hu.lData, hu.lAddr, hu.lLen, hu.build,
      fun a => by rw [hmem], by rw [hmem], hu.inputs, hu.delayReturns, hu.busData⟩

end Sys2Proof.Machine
end

section
/-! SUPPORT. The command words (30_encoding.md): the rows of the selector map, the three fields of a CMD word, which words decode and to what, and the cases of a CMD write. -/

namespace Sys2Proof

/-! ### The command selector map (R50) -/

/-- The map's rows carry the OP and ZF that the encoder gives their command. -/
theorem opRows_fields : ∀ r ∈ opRows, r.op = r.instr.op ∧ r.zf = r.instr.zf := by decide

theorem selectCommand_fields {op : BitVec 4} {zf : Bool} {i : Instr} (h : selectCommand op zf = some i) :
    op = i.op ∧ zf = i.zf := by
  obtain ⟨r, hr, rfl⟩ := Option.map_eq_some_iff.mp h
  obtain ⟨hop, hzf⟩ := opRows_fields r (List.mem_of_find?_eq_some hr)
  have hkey := List.find?_some hr
  rw [Bool.and_eq_true, beq_iff_eq, beq_iff_eq] at hkey
  exact ⟨hkey.1 ▸ hop, hkey.2 ▸ hzf⟩

/-- The codes that name a command are those of `legal(w)` (R51). -/
theorem selectCommand_isSome : ∀ (op : BitVec 4) (zf : Bool), (selectCommand op zf).isSome =
    ((!zf && decide (1 ≤ op.toNat) && decide (op.toNat ≤ 9)) || (zf && op == 0x7#4)) := by decide

/-! ### A CMD word is its three fields (R48) -/

theorem getLsbD_add_of_extractLsb'_eq {w v : Word} {start len : Nat}
    (h : w.extractLsb' start len = v.extractLsb' start len) {k : Nat} (hk : k < len) :
    w.getLsbD (start + k) = v.getLsbD (start + k) := by
  simpa [BitVec.getLsbD_extractLsb', hk] using congrArg (BitVec.getLsbD · k) h

theorem word_eq_of_fields {w v : Word} (hop : cmdOp w = cmdOp v) (hzf : cmdZf w = cmdZf v)
    (hres : cmdReserved w = cmdReserved v) : w = v := by
  apply BitVec.eq_of_getLsbD_eq
  intro n hn
  obtain hlow | rfl | hhigh : n < 4 ∨ n = 4 ∨ 5 ≤ n := by omega
  · simpa using getLsbD_add_of_extractLsb'_eq hop hlow
  · exact hzf
  · simpa [Nat.add_sub_cancel' hhigh] using getLsbD_add_of_extractLsb'_eq hres (k := n - 5) (by omega)

/-! ### Decoding (R50, R51) -/

theorem decodeWord_eq_ok_iff {w : Word} {i : Instr} :
    decodeWord w = .ok i ↔ cmdReserved w = 0#27 ∧ selectCommand (cmdOp w) (cmdZf w) = some i := by
  unfold decodeWord
  split
  · next hres =>
    cases selectCommand (cmdOp w) (cmdZf w) with
    | some j => simp [hres]
    | none => cases cmdZf w <;> simp
  · next hres => simp [hres]

/-- No two words name one command. -/
theorem decodeWord_injective {w v : Word} {i : Instr} (hw : decodeWord w = .ok i) (hv : decodeWord v = .ok i) :
    w = v := by
  obtain ⟨hresw, hw⟩ := decodeWord_eq_ok_iff.mp hw
  obtain ⟨hresv, hv⟩ := decodeWord_eq_ok_iff.mp hv
  obtain ⟨hopw, hzfw⟩ := selectCommand_fields hw
  obtain ⟨hopv, hzfv⟩ := selectCommand_fields hv
  exact word_eq_of_fields (hopw.trans hopv.symm) (hzfw.trans hzfv.symm) (hresw.trans hresv.symm)

theorem decodeWord_encodeWord (i : Instr) : decodeWord (encodeWord i) = .ok i := by
  cases i <;> rfl

theorem legalWord_iff_selectCommand {w : Word} :
    legalWord w = true ↔ cmdReserved w = 0#27 ∧ ∃ i, selectCommand (cmdOp w) (cmdZf w) = some i := by
  rw [legalWord, ← selectCommand_isSome, Bool.and_eq_true, beq_iff_eq, Option.isSome_iff_exists]

theorem legalWord_iff_decodes {w : Word} : legalWord w = true ↔ ∃ i, decodeWord w = .ok i := by
  simp only [legalWord_iff_selectCommand, decodeWord_eq_ok_iff, exists_and_left]

/-- R51's `legal(w)`, its connectives read as propositions. -/
theorem legalWord_iff {w : Word} : legalWord w = true ↔ cmdReserved w = 0#27 ∧
    ((cmdZf w = false ∧ 1 ≤ (cmdOp w).toNat ∧ (cmdOp w).toNat ≤ 9) ∨ (cmdZf w = true ∧ cmdOp w = 7#4)) := by
  simp [legalWord, and_assoc]

/-- R52's list of illegal words: none of them is legal. -/
theorem not_legalWord_of_illegal {w : Word}
    (h : (cmdOp w = 0#4 ∨ 10 ≤ (cmdOp w).toNat) ∨ cmdReserved w ≠ 0#27 ∨ (cmdZf w = true ∧ cmdOp w ≠ 7#4)) :
    ¬ legalWord w = true := by
  rw [legalWord_iff]
  rintro ⟨hres, ⟨hzf, hlo, hhi⟩ | ⟨hzf, hop⟩⟩
  · obtain (hop | hop) | hne | ⟨hzf', -⟩ := h
    · simp [hop] at hlo
    · omega
    · exact hne hres
    · simp [hzf] at hzf'
  · simp [hres, hop] at h

/-- Settles O1: decoding undoes encoding on each command, and no two words decode to one command. -/
theorem eachCommandHasExactlyOneWord : Obligations.EachCommandHasExactlyOneWord :=
  ⟨fun i _ => decodeWord_encodeWord i, fun _ i hw => decodeWord_injective hw (decodeWord_encodeWord i), rfl⟩

end Sys2Proof

namespace Sys2Proof.Machine

/-! ### The cases of a CMD write (R51, R52) -/

theorem cmdWrite_of_busy {s : State} (hf : s.fault = false) (hb : s.busy = true) (w : Word) :
    cmdWrite w s = { s with err := .cmdWhileBusy } := by
  simp [cmdWrite, hf, hb]

theorem cmdWrite_of_not_legal {s : State} {w : Word} (hf : s.fault = false) (hb : s.busy = false)
    (hw : ¬ legalWord w = true) : cmdWrite w s = { s with err := .illegalCmd } := by
  cases hd : decodeWord w with
  | ok i => exact absurd (legalWord_iff_decodes.mpr ⟨i, hd⟩) hw
  | error r => simp [cmdWrite, hf, hb, hd]

/-- Settles O4: one lemma for each case of `cmdWrite`, in R51's order, where the legal words are those that decode. -/
theorem cmdWriteFollowsAcceptanceOrder : Obligations.CmdWriteFollowsAcceptanceOrder := by
  intro s w
  rw [hostStore_cmd]
  refine ⟨fun hf => ?_, fun hf hb => ?_, fun hf hb hw => ?_, fun hf hb hw => ?_⟩
  · rw [cmdWrite_of_fault hf]
  · rw [cmdWrite_of_busy hf hb]
  · rw [cmdWrite_of_not_legal hf hb (mt legalWord_iff.mp hw)]
  · obtain ⟨i, hi⟩ := legalWord_iff_decodes.mp (legalWord_iff.mpr hw)
    exact ⟨i, (decodeWord_eq_ok_iff.mp hi).2, by rw [cmdWrite_of_decoded hf hb hi]; rfl⟩

/-- Settles O5: no word of R52's list is legal, so none decodes and a CMD write of it is the third case of R51. -/
theorem illegalWordSetsErrOnly : Obligations.IllegalWordSetsErrOnly := by
  intro s w hf hb h
  have hw := not_legalWord_of_illegal h
  exact ⟨by rw [hostStore_cmd, cmdWrite_of_not_legal hf hb hw], fun i hi => hw (legalWord_iff_decodes.mpr ⟨i, hi⟩)⟩

end Sys2Proof.Machine
end

section
/-! SUPPORT. The FEC encoder (40_fec.md): each parity bit is the parity under its mask (R59), from which the function is linear, and so its distance and its kernel are facts about single bytes. -/

namespace Sys2Proof.Machine

/-! ### Parity bits (R59) -/

/-- R59's table: the sum of R57 that stands in bit `j` has the data bits of mask `j`. -/
theorem fec_getLsbD {j : Nat} (hj : j < 8) (d : Byte) : (fec d).getLsbD j = parity (d &&& fecMask j) := by
  rw [fec]
  simp only [BitVec.getLsbD_append, BitVec.getLsbD_ofBool]
  interval_cases j <;>
    simp [fecMask, parity, List.range_succ, fecP0, fecP1, fecP2, fecP3, fecP4, fecP5, fecP6, fecP7, bne_comm]

theorem foldl_xor_xor (f g : Nat → Bool) (l : List Nat) (a b : Bool) :
    l.foldl (fun acc k => acc ^^ (f k ^^ g k)) (a ^^ b) =
      (l.foldl (fun acc k => acc ^^ f k) a ^^ l.foldl (fun acc k => acc ^^ g k) b) := by
  induction l generalizing a b with
  | nil => rfl
  | cons k l ih =>
    have hswap : ((a ^^ b) ^^ (f k ^^ g k)) = ((a ^^ f k) ^^ (b ^^ g k)) := by
      simp only [Bool.xor_assoc, Bool.xor_left_comm]
    rw [List.foldl_cons, hswap, ih, List.foldl_cons, List.foldl_cons]

theorem parity_xor (x y : Byte) : parity (x ^^^ y) = (parity x ^^ parity y) := by
  simpa [parity] using foldl_xor_xor x.getLsbD y.getLsbD (List.range 8) false false

/-- Settles O20: exec answers the micro step of ENCODE, and its byte is `fec`, bit by bit a parity under a mask. -/
theorem encodeWritesParityByte : Obligations.EncodeWritesParityByte :=
  fun s h => ⟨fec s.lData, exec_of_seq h, fun _ hj => fec_getLsbD hj s.lData⟩

/-! ### Linearity (R60) -/

theorem fec_xor (a b : Byte) : fec (a ^^^ b) = fec a ^^^ fec b := by
  apply BitVec.eq_of_getLsbD_eq
  intro j hj
  have hmask : (a ^^^ b) &&& fecMask j = (a &&& fecMask j) ^^^ (b &&& fecMask j) := by
    ext k hk
    simp [Bool.and_xor_distrib_right]
  rw [BitVec.getLsbD_xor, fec_getLsbD hj, fec_getLsbD hj, fec_getLsbD hj, hmask, parity_xor]

/-- Settles O21: masking and parity are both linear; the columns are evaluated. -/
theorem fecIsLinear : Obligations.FecIsLinear :=
  ⟨fec_xor, by decide, by decide⟩

/-! ### Distance (R61) -/

/-- The least weight of a codeword, over the 255 data bytes other than 0. -/
theorem five_le_weight_codeword : ∀ d : Byte, d ≠ 0#8 → 5 ≤ weight d + weight (fec d) := by decide

/-- Settles O22: the distance of two codewords is the weight of the codeword of `a ^^^ b`, by linearity; the count and
the four examples are evaluated. -/
theorem fecMinimumDistanceIsFive : Obligations.FecMinimumDistanceIsFive := by
  refine ⟨fun a b hab => ?_, by decide, by decide⟩
  rw [← fec_xor]
  exact five_le_weight_codeword (a ^^^ b) (mt BitVec.xor_eq_zero_iff.mp hab)

/-! ### Kernel (R62) -/

theorem fec_eq_zero_iff : ∀ d : Byte, fec d = 0#8 ↔ d = 0#8 ∨ d = 0x79#8 := by decide

theorem fec_eq_fec_iff (a b : Byte) : fec a = fec b ↔ a = b ∨ b = a ^^^ 0x79#8 := by
  rw [← BitVec.xor_eq_zero_iff, ← fec_xor, fec_eq_zero_iff, BitVec.xor_eq_zero_iff, xor_eq_iff_right_eq]

/-- The data byte stands in bits 14 to 7 of the frame word. -/
theorem extractLsb'_frameWord (d : Byte) : (frameWord d).extractLsb' 7 8 = d := by
  ext k hk
  rw [BitVec.getElem_extractLsb', frameWord, BitVec.getLsbD_append, BitVec.getLsbD_append]
  simp [hk]

theorem frameWord_injective : Function.Injective frameWord :=
  Function.LeftInverse.injective extractLsb'_frameWord

/-- Every value of `fec` is that of two data bytes, which differ by 0x79. -/
theorem card_filter_fec_eq (a : Byte) : (Finset.univ.filter fun b => fec b = fec a).card = 2 := by
  have hpair : (Finset.univ.filter fun b => fec b = fec a) = {a, a ^^^ 0x79#8} := by
    ext b
    simp only [Finset.mem_filter, Finset.mem_univ, true_and, Finset.mem_insert, Finset.mem_singleton]
    rw [eq_comm, fec_eq_fec_iff, eq_comm (a := a)]
  have hne : a ≠ a ^^^ 0x79#8 := fun h => by simpa using xor_left_eq_self_iff.mp h.symm
  rw [hpair, Finset.card_pair hne]

theorem card_image_fec : (Finset.univ.image fec).card = 128 := by
  have hfibre : ∀ y ∈ Finset.univ.image fec, (Finset.univ.filter fun b => fec b = y).card = 2 := by
    intro y hy
    obtain ⟨a, -, rfl⟩ := Finset.mem_image.mp hy
    exact card_filter_fec_eq a
  have hcount := Finset.card_eq_sum_card_image fec Finset.univ
  rw [Finset.sum_const_nat hfibre, Finset.card_univ, ← FinEnum.card_eq_fintypeCard, FinEnum.card_bitVec] at hcount
  omega

theorem toFinset_map_fec :
    ((List.range 256).map fun n => fec (BitVec.ofNat 8 n)).toFinset = Finset.univ.image fec := by
  ext y
  simp only [List.mem_toFinset, List.mem_map, List.mem_range, Finset.mem_image, Finset.mem_univ, true_and]
  constructor
  · rintro ⟨n, -, rfl⟩; exact ⟨_, rfl⟩
  · rintro ⟨d, rfl⟩; exact ⟨d.toNat, d.isLt, by simp⟩

/-- Settles O23: by linearity the kernel gives the bytes of one parity, and each parity has two; the frame word carries
the data byte itself. -/
theorem fecKernelIsHex79 : Obligations.FecKernelIsHex79 := by
  refine ⟨fec_eq_fec_iff, by decide, fun _ _ h => frameWord_injective h, ?_⟩
  rw [← List.card_toFinset, toFinset_map_fec, card_image_fec]

end Sys2Proof.Machine
end

section
/-! SUPPORT. The chip modulator (41_modulator.md): the frame as the frame word read from its highest bit down, and the chip stream as blocks of one length. -/

namespace Sys2Proof.Machine

/-! ### The frame word (R66, R72) -/

theorem setWidth_append_eq_or {m n : Nat} (u : BitVec m) (v : BitVec n) (w : Nat) :
    (u ++ v).setWidth w = (u.setWidth w <<< n) ||| v.setWidth w := by
  ext i hi
  rw [BitVec.getElem_setWidth, BitVec.getLsbD_append]
  by_cases h : i < n
  · simp [h]
  · simp [h, BitVec.getLsbD_of_ge v i (Nat.le_of_not_lt h)]

theorem frameWord_eq_or (d : Byte) :
    frameWord d = (0x72#30 <<< 23) ||| ((fec d).setWidth 30 <<< 15) ||| (d.setWidth 30 <<< 7) ||| 0x58#30 := by
  rw [← BitVec.setWidth_eq (frameWord d), frameWord]
  simp only [setWidth_append_eq_or, BitVec.shiftLeft_or_distrib, ← BitVec.shiftLeft_add]
  rfl

/-- Settles O24: exec answers the micro step of FRAME, and the concatenation of R66 is the sum of its shifted parts. -/
theorem frameWritesFrameWord : Obligations.FrameWritesFrameWord := by
  intro s h
  rw [← frameWord_eq_or]
  exact exec_of_seq h

/-! ### The bits of the frame (R64, R65) -/

theorem getElem?_bitsMsbFirst {w k : Nat} (hk : k < w) (v : BitVec w) :
    (bitsMsbFirst v)[k]? = some (v.getLsbD (w - 1 - k)) := by
  simp [bitsMsbFirst, hk]

@[simp] theorem length_bitsMsbFirst {w : Nat} (v : BitVec w) : (bitsMsbFirst v).length = w := by
  simp [bitsMsbFirst]

theorem getElem_bitsMsbFirst {w k : Nat} (v : BitVec w) (hk : k < (bitsMsbFirst v).length) :
    (bitsMsbFirst v)[k] = v.getMsbD k := by
  rw [length_bitsMsbFirst] at hk
  simp [bitsMsbFirst, BitVec.getMsbD, hk]

theorem bitsMsbFirst_append {m n : Nat} (u : BitVec m) (v : BitVec n) :
    bitsMsbFirst (u ++ v) = bitsMsbFirst u ++ bitsMsbFirst v := by
  apply List.ext_getElem (by simp)
  intro k _ _
  rw [getElem_bitsMsbFirst, BitVec.getMsbD_append, List.getElem_append]
  by_cases h : k < m
  · simp [h, getElem_bitsMsbFirst]
  · simp [h, getElem_bitsMsbFirst, Nat.le_of_not_lt h]

/-- R64 and R66 name the same 30 bits: the list of the fields' bits is the list of the concatenation's bits. -/
theorem frame_eq_bitsMsbFirst_frameWord (d : Byte) : frame d = bitsMsbFirst (frameWord d) := by
  rw [frame, frameWord, bitsMsbFirst_append, bitsMsbFirst_append, bitsMsbFirst_append]

theorem length_frame (d : Byte) : (frame d).length = 30 := by
  rw [frame_eq_bitsMsbFirst_frameWord, length_bitsMsbFirst]

/-- Bit `k` of the frame is bit `29 - k` of the frame word. -/
theorem getElem?_frame {k : Nat} (hk : k < 30) (d : Byte) :
    (frame d)[k]? = some ((frameWord d).getLsbD (29 - k)) := by
  rw [frame_eq_bitsMsbFirst_frameWord, getElem?_bitsMsbFirst hk]

/-- The fields of the frame word: postamble, data byte, parity byte and preamble, from bit 0 up. -/
theorem getLsbD_frameWord (d : Byte) (j : Nat) :
    (frameWord d).getLsbD j =
      if j < 7 then Config.postamble.getLsbD j
      else if j < 15 then d.getLsbD (j - 7)
      else if j < 23 then (fec d).getLsbD (j - 15)
      else Config.preamble.getLsbD (j - 23) := by
  have hdata : j < 15 ↔ j - 7 < 8 := by omega
  have hparity : j < 23 ↔ j - 15 < 8 := by omega
  simp only [hdata, hparity]
  rw [frameWord, BitVec.getLsbD_append, BitVec.getLsbD_append, BitVec.getLsbD_append, Nat.sub_sub, Nat.sub_sub]

theorem getLsbD_preamble :
    ∀ k < 7, Config.preamble.getLsbD (6 - k) = [true, true, true, false, false, true, false].getD k false := by decide

theorem getLsbD_postamble :
    ∀ k < 7, Config.postamble.getLsbD (6 - k) = [true, false, true, true, false, false, false].getD k false := by decide

/-- Settles O25: the frame is the frame word read from bit 29 down, and a position is in one of the word's four fields. -/
theorem frameBitsByPosition : Obligations.FrameBitsByPosition := by
  refine fun d => ⟨length_frame d, fun k hk => ?preamble, fun k hlo hhi => ?parity, fun k hlo hhi => ?data,
    fun k hlo hhi => ?postamble, fun k hk => getElem?_frame hk d⟩
  all_goals rw [getElem?_frame (by omega), getLsbD_frameWord]
  case preamble =>
    rw [if_neg (by omega), if_neg (by omega), if_neg (by omega), show 29 - k - 23 = 6 - k by omega,
      getLsbD_preamble k hk]
  case parity =>
    rw [if_neg (by omega), if_neg (by omega), if_pos (by omega), show 29 - k - 15 = 14 - k by omega]
  case data =>
    rw [if_neg (by omega), if_pos (by omega), show 29 - k - 7 = 22 - k by omega]
  case postamble =>
    rw [if_pos (by omega), show 29 - k = 6 - (k - 23) by omega, getLsbD_postamble (k - 23) (by omega)]

/-! ### The chip stream (R67 to R69) -/

section Blocks

/-! A list of blocks of one length `n`. -/

variable {α : Type} {n : Nat} {L : List (List α)} (h : ∀ l ∈ L, l.length = n)
include h

theorem length_flatten_of_blocks : L.flatten.length = n * L.length := by
  rw [List.length_flatten, List.map_eq_replicate_iff.mpr h, List.sum_replicate, smul_eq_mul, Nat.mul_comm]

theorem take_drop_flatten_of_blocks {i : Nat} (hi : i < L.length) : (L.flatten.drop (n * i)).take n = L[i] := by
  have hsum : ∀ j ≤ L.length, ((L.map List.length).take j).sum = n * j := by
    intro j hj
    rw [List.map_eq_replicate_iff.mpr h, List.take_replicate, List.sum_replicate, min_eq_left hj, smul_eq_mul,
      Nat.mul_comm]
  have hblock := List.drop_take_succ_flatten_eq_getElem L i hi
  rwa [hsum i hi.le, hsum (i + 1) hi, List.drop_take, Nat.mul_succ, Nat.add_sub_cancel_left] at hblock

end Blocks

theorem length_burst (b : Build) (d : Byte) (k : Nat) : (burst b d k).length = 64 := by
  rw [burst]
  cases burstPrn d k <;> exact Vector.length_toList

theorem burst_eq_ite (b : Build) (d : Byte) (k : Nat) :
    burst b d k = if (frame d).getD k false then b.prnOne.toList else b.prnZero.toList :=
  apply_ite (prnBytes b) _ _ _

/-- Settles O26: the chip stream is 30 blocks of 64 bytes, and block `k` is the sequence frame bit `k` selects. -/
theorem chipStreamIsThirtyWholeSequences : Obligations.ChipStreamIsThirtyWholeSequences := by
  intro b d
  have hblocks : ∀ l ∈ (List.range Config.frameBits).map (burst b d), l.length = 64 := by
    simp [length_burst]
  have hcount : ((List.range Config.frameBits).map (burst b d)).length = 30 := by
    simp [Config.frameBits]
  refine ⟨?_, fun k hk => ?_⟩
  · rw [chipStream, length_flatten_of_blocks hblocks, hcount]
  · rw [chipStream, take_drop_flatten_of_blocks hblocks (hcount.symm ▸ hk), ← burst_eq_ite]
    simp

end Sys2Proof.Machine
end

section
/-! SUPPORT. Exceptions (60_exceptions.md): the CMD write while BUSY, which no step of the running command sees (R96), the faulted machine (R98), and the source read, taken or faulting (R97). -/

namespace Sys2Proof.Machine

/-! ### A CMD write while BUSY and the running command (R96) -/

/-- What a CMD write leaves while BUSY = 1: ERR is CMD_WHILE_BUSY, unless FAULT = 1. -/
def noteBusyWrite (s : State) : State := { s with err := if s.fault then s.err else .cmdWhileBusy }

theorem noteBusyWrite_of_not_fault {s : State} (hf : s.fault = false) :
    noteBusyWrite s = { s with err := .cmdWhileBusy } := by
  simp [noteBusyWrite, hf]

theorem noteBusyWrite_of_fault {s : State} (hf : s.fault = true) : noteBusyWrite s = s := by
  rw [noteBusyWrite, if_pos hf]

theorem cmdWrite_eq_noteBusyWrite {s : State} (hb : s.busy = true) (w : Word) : cmdWrite w s = noteBusyWrite s := by
  cases hf : s.fault with
  | true => rw [cmdWrite_of_fault hf, noteBusyWrite_of_fault hf]
  | false => rw [cmdWrite_of_busy hf hb, noteBusyWrite_of_not_fault hf]

@[simp] theorem noteBusyWrite_build (s : State) : (noteBusyWrite s).build = s.build := rfl

/-- An operation on which a CMD write while BUSY has no bearing: the write may come before it or after it. MemFault is one: it
writes ERR itself, and a CMD write after it is ignored. -/
abbrev SameAroundBusyWrite (f : State → State) : Prop := Function.Commute noteBusyWrite f

theorem sameAroundBusyWrite_goto (q : Running) : SameAroundBusyWrite (goto q) := fun _ => rfl
theorem sameAroundBusyWrite_complete : SameAroundBusyWrite complete := fun _ => rfl
theorem sameAroundBusyWrite_raiseMemFault (a : Nat) : SameAroundBusyWrite (raiseMemFault a) := fun _ => rfl

theorem SameAroundBusyWrite.ite {c : Prop} [Decidable c] {f f' : State → State} (hf : SameAroundBusyWrite f)
    (hf' : SameAroundBusyWrite f') : SameAroundBusyWrite (if c then f else f') := by
  split
  · exact hf
  · exact hf'

theorem sameAroundBusyWrite_markFill (buf : List Byte) : SameAroundBusyWrite (markFill buf) :=
  fun _ => apply_ite noteBusyWrite _ _ _

theorem sameAroundBusyWrite_refillOpen (restart : Bool) (rem : Nat) : SameAroundBusyWrite (refillOpen restart rem) := by
  cases restart <;> exact fun _ => rfl

theorem sameAroundBusyWrite_txNext (i : Nat) : SameAroundBusyWrite (txNext i) :=
  fun _ => apply_ite noteBusyWrite _ _ _

theorem sameAroundBusyWrite_txGap (i : Nat) : SameAroundBusyWrite (txGap i) := by
  intro s
  cases hm : s.build.paceMode <;> simp only [txGap, noteBusyWrite_build, hm] <;> rfl

theorem sameAroundBusyWrite_delayThen (ms : Nat) {after : State → State} (h : SameAroundBusyWrite after) :
    SameAroundBusyWrite (delayThen ms after) :=
  fun s => (apply_ite noteBusyWrite _ _ _).trans (if_congr Iff.rfl (h (emit (.delay ms) s)) rfl)

theorem sameAroundBusyWrite_memReadThen (a : Nat) {after : Byte → State → State} (h : ∀ v, SameAroundBusyWrite (after v)) :
    SameAroundBusyWrite (memReadThen a after) :=
  fun s => (apply_ite noteBusyWrite _ _ _).trans
    (if_congr Iff.rfl (h _ (emit (.memRead a (Memory.read s.mem a)) s)) (sameAroundBusyWrite_raiseMemFault a s))

theorem sameAroundBusyWrite_chunkStep (src : Src) (off n : Nat) (buf : List Byte) {onRead : List Byte → State → State}
    {onWrite : State → State} (hr : ∀ b, SameAroundBusyWrite (onRead b)) (hw : SameAroundBusyWrite onWrite) :
    SameAroundBusyWrite (chunkStep src off n buf onRead onWrite) := by
  intro s
  cases src with
  | zero => exact hw (writeZeros n s)
  | rom t => exact hw (writeBuf n (romSlice s.build t off n) s)
  | mem base =>
    exact (apply_ite noteBusyWrite _ _ _).trans
      (if_congr Iff.rfl (sameAroundBusyWrite_memReadThen _ (fun v => hr (buf ++ [v])) s) (hw (writeBuf n buf s)))

theorem sameAroundBusyWrite_refillStep (src : Src) (restart : Bool) (at' : RefillPoint → Running) {after : State → State}
    (h : SameAroundBusyWrite after) (p : RefillPoint) : SameAroundBusyWrite (refillStep src restart at' after p) := by
  cases p with
  | enter off rem =>
    exact fun s => sameAroundBusyWrite_delayThen _
      ((sameAroundBusyWrite_goto _).comp_right (sameAroundBusyWrite_refillOpen restart rem)) s
  | delay off rem => exact fun s => sameAroundBusyWrite_delayThen _ (sameAroundBusyWrite_goto _) s
  | poll off rem => exact fun _ => rfl
  | chunk off rem n buf =>
    exact sameAroundBusyWrite_chunkStep _ _ _ _ (fun _ => sameAroundBusyWrite_goto _)
      (.ite h (sameAroundBusyWrite_goto _))

theorem sameAroundBusyWrite_beginStep (src : Src) (len : Nat) (at' : BeginPoint → Running) {after : State → State}
    (h : SameAroundBusyWrite after) (p : BeginPoint) : SameAroundBusyWrite (beginStep src len at' after p) := by
  cases p with
  | enter => exact fun _ => rfl
  | idleWait => exact fun _ => rfl
  | flush => exact fun _ => rfl
  | fill buf =>
    have hmark (q : Running) : SameAroundBusyWrite (goto q ∘ markFill buf) :=
      (sameAroundBusyWrite_goto q).comp_right (sameAroundBusyWrite_markFill buf)
    exact sameAroundBusyWrite_chunkStep _ _ _ _ (fun _ => hmark _) (hmark _)
  | start =>
    exact fun s => SameAroundBusyWrite.ite h (sameAroundBusyWrite_goto _) (strobe s.build.strobeStart s)
  | oscWait => exact fun _ => rfl
  | refill p => exact sameAroundBusyWrite_refillStep _ _ _ h p

theorem sameAroundBusyWrite_endStep (at' : EndPoint → Running) {after : State → State} (h : SameAroundBusyWrite after)
    (p : EndPoint) : SameAroundBusyWrite (endStep at' after p) := by
  cases p with
  | enter => exact fun _ => rfl
  | drainWait => exact fun _ => rfl
  | idle => exact fun s => h (setPhase .idle (strobe s.build.strobeIdle s))

theorem sameAroundBusyWrite_frameStep (d : Byte) (at' : FramePoint → Running) {after : State → State}
    (h : SameAroundBusyWrite after) (p : FramePoint) : SameAroundBusyWrite (frameStep d at' after p) := by
  cases p with
  | first p => exact sameAroundBusyWrite_beginStep _ _ _ (sameAroundBusyWrite_goto _) p
  | burst k p => exact sameAroundBusyWrite_refillStep _ _ _ (sameAroundBusyWrite_goto _) p
  | last p => exact sameAroundBusyWrite_endStep _ h p

theorem sameAroundBusyWrite_txRead (i : Nat) : SameAroundBusyWrite (txRead i) :=
  fun s => sameAroundBusyWrite_memReadThen (s.opBase + i) (fun _ => sameAroundBusyWrite_goto _) s

theorem sameAroundBusyWrite_txStart : SameAroundBusyWrite txStart := by
  intro s
  cases hm : s.build.paceMode with
  | production => simp only [txStart, noteBusyWrite_build, hm]; rfl
  | deterministic =>
    simp only [txStart, noteBusyWrite_build, hm]
    exact (apply_ite noteBusyWrite _ _ _).trans (if_congr Iff.rfl (sameAroundBusyWrite_txRead 0 s) rfl)

theorem sameAroundBusyWrite_txStep (p : TxPoint) : SameAroundBusyWrite (txStep p) := by
  cases p with
  | start => exact sameAroundBusyWrite_txStart
  | leadDelay r0 => exact sameAroundBusyWrite_delayThen _ (sameAroundBusyWrite_txNext 0)
  | read i => exact sameAroundBusyWrite_txRead i
  | frame i d p => exact sameAroundBusyWrite_frameStep _ _ (sameAroundBusyWrite_txGap i) p
  | gapDraw i => exact fun _ => rfl
  | gapDelay i ms => exact sameAroundBusyWrite_delayThen _ (sameAroundBusyWrite_txNext (i + 1))

theorem sameAroundBusyWrite_rawStep (p : RawPoint) : SameAroundBusyWrite (rawStep p) := by
  cases p with
  | stream p =>
    exact fun s => sameAroundBusyWrite_beginStep (.mem s.opBase) s.opLength _ (sameAroundBusyWrite_goto _) p s
  | close p => exact sameAroundBusyWrite_endStep _ sameAroundBusyWrite_complete p

theorem sameAroundBusyWrite_contStep (src : Src) (at' : RefillPoint → Running) (p : RefillPoint) :
    SameAroundBusyWrite (contStep src at' p) :=
  fun s => (apply_ite noteBusyWrite _ _ _).trans
    (if_congr Iff.rfl rfl (sameAroundBusyWrite_refillStep src true at' sameAroundBusyWrite_complete p s))

/-- The running command goes on as if the CMD write had not happened. -/
theorem sameAroundBusyWrite_microStep (q : Running) : SameAroundBusyWrite (microStep q) := by
  intro s
  cases q with
  | encode => rfl
  | frame => rfl
  | setPwr => rfl
  | txByte p => exact sameAroundBusyWrite_frameStep s.opData _ sameAroundBusyWrite_complete p s
  | tx p => exact sameAroundBusyWrite_txStep p s
  | rawTx p => exact sameAroundBusyWrite_rawStep p s
  | beginTx p => exact sameAroundBusyWrite_beginStep (.mem s.opBase) s.opLength _ sameAroundBusyWrite_complete p s
  | cont p => exact sameAroundBusyWrite_contStep (.mem s.opBase) _ p s
  | contZ p => exact sameAroundBusyWrite_contStep .zero _ p s
  | endTx p => exact sameAroundBusyWrite_endStep _ sameAroundBusyWrite_complete p s

/-- The sequencer never clears FAULT. -/
theorem fault_of_microStep_fault {q : Running} {s : State} (h : (microStep q s).fault = false) : s.fault = false := by
  obtain hk | ⟨a, -, hr⟩ := microStep_keepsOrRaisesFault q s
  · exact hk ▸ h
  · simp [hr] at h

/-- Settles O6: the write is R51's second case, and every micro step is the same before it and after it. -/
theorem busyWriteIsDiscarded : Obligations.BusyWriteIsDiscarded := by
  refine ⟨fun s w hf hb => ?_, fun i s t h ht => ?_⟩
  · rw [hostStore_cmd, cmdWrite_eq_noteBusyWrite hb, noteBusyWrite_of_not_fault hf]
  · obtain ⟨q, hq, rfl, rfl⟩ := exec_next h
    rw [← noteBusyWrite_of_not_fault ht, ← noteBusyWrite_of_not_fault (fault_of_microStep_fault ht),
      sameAroundBusyWrite_microStep q s]
    exact exec_of_seq hq

/-! ### The faulted machine (R98) -/

theorem hostStore_argData (v : Word) (s : State) : hostStore 0x08 4 v s = .next { s with argData := v.setWidth 8 } := rfl

theorem hostStore_argAddr (v : Word) (s : State) : hostStore 0x0C 4 v s = .next { s with argAddr := s.addrCut v.toNat } := rfl

theorem hostStore_argLen (v : Word) (s : State) : hostStore 0x10 4 v s = .next { s with argLen := s.lenCut v.toNat } := rfl

theorem goodEnd_of_fault {s : State} (h : s.fault = true) : goodEnd s = false := by
  simp [goodEnd, h]

/-- Settles O7: the stores by the register block's own rules, and reset alone clears FAULT as R9 says. -/
theorem faultedMachineIgnoresCommands : Obligations.FaultedMachineIgnoresCommands := by
  intro s hf
  obtain ⟨-, honlyReset, -, hcmd⟩ := faultSetOnlyByMemFaultClearedOnlyByReset
  exact ⟨fun w => hcmd s w hf, fun v => hostStore_argData v s, fun v => hostStore_argAddr v s,
    fun v => hostStore_argLen v s, fun t h ht => honlyReset s t h hf ht, goodEnd_of_fault hf⟩

/-! ### The source read the running command stands before (20_memory.md R37; R97) -/

/-- What goes with a MemRead: SEQ moves on, and PHASE may. -/
def MovesOn (f : State → State) : Prop := ∀ u, ∃ q p, f u = goto q (setPhase p u)

theorem movesOn_goto (q : Running) : MovesOn (goto q) := fun u => ⟨q, u.phase, rfl⟩

theorem movesOn_goto_markFill (q : Running) (buf : List Byte) : MovesOn (fun u => goto q (markFill buf u)) := by
  intro u
  cases buf with
  | nil => exact ⟨q, .initialFill, rfl⟩
  | cons b bs => exact ⟨q, u.phase, rfl⟩

/-- The step from `s` to `t` is the MemRead at `a`. -/
def ReadsAt (a : Nat) (s t : State) : Prop := ∃ after, (∀ v, MovesOn (after v)) ∧ t = memReadThen a after s

theorem ReadsAt.of_admitted {a : Nat} {s t : State} (h : ReadsAt a s t) (ha : admits s.build a = true) :
    ∃ q p, t = goto q (setPhase p (emit (.memRead a (Memory.read s.mem a)) s)) := by
  obtain ⟨after, hafter, rfl⟩ := h
  rw [memReadThen, if_pos ha]
  exact hafter _ _

theorem ReadsAt.of_not_admitted {a : Nat} {s t : State} (h : ReadsAt a s t) (ha : admits s.build a = false) :
    t = raiseMemFault a s := by
  obtain ⟨after, -, rfl⟩ := h
  simp [memReadThen, ha]

section
variable {s : State} {a base : Nat}

theorem chunkStep_readsAt {off n : Nat} {buf : List Byte} (h : chunkRead base off n buf = some a)
    {onRead : List Byte → State → State} (hr : ∀ b, MovesOn (onRead b)) (onWrite : State → State) :
    ReadsAt a s (chunkStep (.mem base) off n buf onRead onWrite s) := by
  obtain ⟨hlt, rfl⟩ : buf.length < n ∧ base + off + buf.length = a := by simpa [chunkRead] using h
  exact ⟨_, fun v => hr (buf ++ [v]), if_pos hlt⟩

theorem refillStep_readsAt {p : RefillPoint} (h : refillRead base p = some a) (restart : Bool)
    (at' : RefillPoint → Running) (after : State → State) :
    ReadsAt a s (refillStep (.mem base) restart at' after p s) := by
  cases p with
  | chunk off rem n buf => exact chunkStep_readsAt h (fun _ => movesOn_goto _) _
  | _ => cases h

theorem beginStep_readsAt {len : Nat} {p : BeginPoint} (h : beginRead base len p = some a)
    (at' : BeginPoint → Running) (after : State → State) :
    ReadsAt a s (beginStep (.mem base) len at' after p s) := by
  cases p with
  | fill buf => rw [beginStep]; exact chunkStep_readsAt h (fun _ => movesOn_goto_markFill _ buf) _
  | refill p => rw [beginStep]; exact refillStep_readsAt h _ _ _
  | _ => cases h

theorem contStep_readsAt {p : RefillPoint} (h : refillRead base p = some a) (at' : RefillPoint → Running) :
    ReadsAt a s (contStep (.mem base) at' p s) := by
  have hp : p ≠ .enter 0 0 := by rintro rfl; cases h
  rw [contStep, if_neg hp]
  exact refillStep_readsAt h _ _ _

theorem txRead_readsAt (i : Nat) : ReadsAt (s.opBase + i) s (txRead i s) := ⟨_, fun _ => movesOn_goto _, rfl⟩

theorem txStep_readsAt {p : TxPoint} (h : sourceRead s (.tx p) = some a) : ReadsAt a s (txStep p s) := by
  cases p with
  | start =>
    obtain ⟨⟨hdet, hlen⟩, rfl⟩ : (s.build.paceMode = .deterministic ∧ 0 < s.opLength) ∧ s.opBase = a := by
      simpa [sourceRead] using h
    simp only [txStep, txStart, hdet, if_pos hlen]
    exact txRead_readsAt 0
  | read i =>
    obtain rfl : s.opBase + i = a := by simpa [sourceRead] using h
    exact txRead_readsAt i
  | _ => cases h

/-- Where SEQ stands before a MemRead, the micro step is that MemRead. -/
theorem microStep_readsAt {q : Running} (h : sourceRead s q = some a) : ReadsAt a s (microStep q s) := by
  cases q with
  | tx p => exact txStep_readsAt h
  | rawTx p =>
    cases p with
    | stream p => exact beginStep_readsAt h _ _
    | close p => cases h
  | beginTx p => exact beginStep_readsAt h _ _
  | cont p => exact contStep_readsAt h _
  | _ => cases h

end

/-- Settles O44: the micro step is the MemRead, which is taken where it is admitted and raises MemFault where it is not. -/
theorem sourceReadIsTakenOrFaults : Obligations.SourceReadIsTakenOrFaults := by
  intro s q a hq hread
  have hstep := microStep_readsAt hread
  rw [exec_of_seq hq]
  refine ⟨fun ha => ?_, fun ha => congrArg _ (hstep.of_not_admitted ha)⟩
  obtain ⟨q', p, ht⟩ := hstep.of_admitted ha
  exact ⟨_, congrArg _ ht, rfl, rfl, rfl, rfl, rfl, rfl, rfl⟩

end Sys2Proof.Machine
end

section
/-! SUPPORT. The reset event (70_reset_and_hazards.md): the step that takes it, and the STATUS word after it. -/

namespace Sys2Proof.Machine

theorem step_of_reset {s : State} {rest : List Input} (h : s.inputs = .reset :: rest) :
    step s = .next (resetEvent { s with inputs := rest }) :=
  step_of_input h

/-- With every field of STATUS at 0 the word is 0, its reserved bits being 0 (R13). -/
theorem statusWord_eq_zero {s : State} (hbusy : s.busy = false) (hfault : s.fault = false) (hphase : s.phase = .idle)
    (herr : s.err = .none) (hdev : s.lastDev = 0#8) : s.statusWord = 0#32 := by
  simp [State.statusWord, hbusy, hfault, hphase, herr, hdev, phaseCode, errCode]

@[simp] theorem resetEvent_statusWord (s : State) : (resetEvent s).statusWord = 0#32 :=
  statusWord_eq_zero (resetEvent_busy s) (resetEvent_fault s) (resetEvent_phase s) (resetEvent_err s) (resetEvent_lastDev s)

/-- Settles O12: the step is the reset event, whose fields are read off one by one. -/
theorem resetEventRestoresResetValues : Obligations.ResetEventRestoresResetValues := by
  intro s rest h
  refine ⟨_, step_of_reset h, ?_⟩
  simp

end Sys2Proof.Machine
end

section
/-! SUPPORT. What one step of the machine can be, said once: which agent moves (60_exceptions.md R107), and the kinds of steps the sequencer takes (00_scope.md R5), each with its point, its event and the registers written with it. The rules about whole steps below are read off these two lists. -/

namespace Sys2Proof.Machine

/-! ### Which agent moves -/

/-- The state with its oldest pending move taken from the list. -/
def taken (s : State) : State := { s with inputs := s.inputs.tail }

/-- A step of the machine, by the agent that moves. -/
inductive Move (s : State) : State → Prop where
  | wait (h : s.seq = none) : Move s (taken s)
  | run (q : Running) (h : s.seq = some q) : Move s (microStep q (taken s))
  | store (v : Word) (r : Reg) : Move s (writeReg v (taken s) r)
  | load (d : Word) (is : List Input) : Move s { s with busData := d, inputs := is }
  | memWrite (a : Nat) (v : Byte) : Move s { taken s with mem := Memory.write s.mem a v }
  | reset (rest : List Input) (h : s.inputs = .reset :: rest) : Move s (resetEvent (taken s))
  | timer (returns : Bool) : Move s (setTimer returns (taken s))

theorem taken_of_no_input {s : State} (h : s.inputs = []) : taken s = s := by
  rw [taken, h, List.tail_nil, ← h]

theorem taken_of_input {s : State} {i : Input} {rest : List Input} (h : s.inputs = i :: rest) :
    taken s = { s with inputs := rest } := by
  rw [taken, h, List.tail_cons]

theorem move_of_runSequencer {s t : State} (h : runSequencer (taken s) = .next t) : Move s t := by
  rw [runSequencer_eq] at h
  cases hq : s.seq with
  | none =>
    obtain rfl : taken s = t := by simpa [taken, hq] using h
    exact .wait hq
  | some q =>
    obtain rfl : microStep q (taken s) = t := by simpa [taken, hq] using h
    exact .run q hq

theorem move_of_takeInput {s t : State} {i : Input} {rest : List Input} (hi : s.inputs = i :: rest)
    (h : takeInput (taken s) i = .next t) : Move s t := by
  cases i with
  | turn => exact move_of_runSequencer h
  | store off width v =>
    simp only [takeInput, hostStore] at h
    split at h
    · split at h <;> cases h
      exact .store v _
    · cases h
  | load off width =>
    simp only [takeInput, hostLoad] at h
    split at h
    · split at h <;> cases h
      exact .load _ _
    · cases h
  | wait => cases h; exact .load _ _
  | memWrite a v =>
    simp only [takeInput, hostMemWrite] at h
    split at h <;> cases h
    exact .memWrite a v
  | reset => cases h; exact .reset rest hi
  | timer returns => cases h; exact .timer returns

theorem move_of_step {s t : State} (h : step s = .next t) : Move s t := by
  obtain ⟨hi, h⟩ | ⟨i, rest, hi, h⟩ := step_cases h
  · exact move_of_runSequencer ((taken_of_no_input hi).symm ▸ h)
  · exact move_of_takeInput hi (taken_of_input hi ▸ h)

/-! ### Where a procedure leads -/

/-- SEQ <- the next point, or the command is complete. -/
def land : Option Running → State → State
  | none => complete
  | some q => goto q

/-- What follows a procedure's last event: SEQ moves within the command, or the command is complete. -/
def Lands (i : Instr) (f : State → State) : Prop :=
  ∀ u, ∃ next : Option Running, (∀ q ∈ next, q.command = i) ∧ f u = land next u

theorem lands_complete (i : Instr) : Lands i complete := fun _ => ⟨none, by simp, rfl⟩

theorem lands_goto {i : Instr} {q : Running} (h : q.command = i) : Lands i (goto q) :=
  fun _ => ⟨some q, by simpa using h, rfl⟩

theorem lands_txNext (i : Nat) : Lands .tx (txNext i) := by
  intro u
  unfold txNext
  split
  · exact ⟨some (.tx (.read i)), by simp [Running.command], rfl⟩
  · exact lands_complete _ u

theorem lands_txGap (i : Nat) : Lands .tx (txGap i) := by
  intro u
  unfold txGap
  split
  · exact ⟨some (.tx (.gapDelay i _)), by simp [Running.command], rfl⟩
  · exact ⟨some (.tx (.gapDraw i)), by simp [Running.command], rfl⟩

@[simp] theorem land_none : land none = complete := rfl
@[simp] theorem land_some (q : Running) : land (some q) = goto q := rfl

section
variable (next : Option Running) (s : State)

@[simp] theorem land_phase : (land next s).phase = s.phase := by cases next <;> rfl
@[simp] theorem land_fault : (land next s).fault = s.fault := by cases next <;> rfl
@[simp] theorem land_err : (land next s).err = s.err := by cases next <;> rfl
@[simp] theorem land_faultAddr : (land next s).faultAddr = s.faultAddr := by cases next <;> rfl
@[simp] theorem land_lastDev : (land next s).lastDev = s.lastDev := by cases next <;> rfl
@[simp] theorem land_devIn : (land next s).devIn = s.devIn := by cases next <;> rfl
@[simp] theorem land_devDraws : (land next s).devDraws = s.devDraws := by cases next <;> rfl
@[simp] theorem land_rndIn : (land next s).rndIn = s.rndIn := by cases next <;> rfl
@[simp] theorem land_rndDraws : (land next s).rndDraws = s.rndDraws := by cases next <;> rfl
@[simp] theorem land_result : (land next s).result = s.result := by cases next <;> rfl
@[simp] theorem land_power : (land next s).power = s.power := by cases next <;> rfl
@[simp] theorem land_sessWritten : (land next s).sessWritten = s.sessWritten := by cases next <;> rfl
@[simp] theorem land_sessRemaining : (land next s).sessRemaining = s.sessRemaining := by cases next <;> rfl
@[simp] theorem land_trace : (land next s).trace = s.trace := by cases next <;> rfl

end

/-! ### The write event of a chunk (42_fifo_stream.md R75) -/

/-- The event that sends bytes `off` to `off + n - 1` of a source, those of host memory being the bytes `buf` read. -/
def chunkEvent (src : Src) (b : Build) (off n : Nat) (buf : List Byte) : Event :=
  match src with
  | .zero => .writeZeros n
  | .rom t => .writeBuf (romSlice b t off n)
  | .mem _ => .writeBuf buf

theorem chunkStep_write (src : Src) {off n : Nat} {buf : List Byte} (onRead : List Byte → State → State)
    (onWrite : State → State) (s : State) (h : ∀ base, src = .mem base → n ≤ buf.length) :
    chunkStep src off n buf onRead onWrite s = onWrite (countWritten n (emit (chunkEvent src s.build off n buf) s)) := by
  cases src with
  | zero => rfl
  | rom t => rfl
  | mem base => exact if_neg (Nat.not_lt_of_le (h base rfl))

theorem chunkStep_read {off n : Nat} {buf : List Byte} (base : Nat) (onRead : List Byte → State → State)
    (onWrite : State → State) (s : State) (h : buf.length < n) :
    chunkStep (.mem base) off n buf onRead onWrite s =
      memReadThen (base + off + buf.length) (fun v => onRead (buf ++ [v])) s :=
  if_pos h

/-- A chunk's step is the MemRead of its next byte where one is still to be read, and else its write event. -/
theorem chunk_reads_or_writes (src : Src) (n : Nat) (buf : List Byte) :
    (∃ base, src = .mem base ∧ buf.length < n) ∨ ∀ base, src = .mem base → n ≤ buf.length := by
  cases src with
  | mem base => simpa using Nat.lt_or_ge buf.length n
  | _ => simp

/-- The address of the next MemRead of a source, where `read` gives it for host memory at a base. -/
def Src.readAt (read : Nat → Option Nat) : Src → Option Nat
  | .mem base => read base
  | .rom _ => none
  | .zero => none

/-! ### The kinds of steps of the sequencer -/

/-- A step of a running command from `s`, by the point it leaves. -/
inductive Micro (s : State) : Running → State → Prop where
  | hang (q : Running) (hd : s.delayReturns = false) : Micro s q s
  | memFault (q : Running) (a : Nat) (hr : sourceRead s q = some a) (ha : admits s.build a = false) :
      Micro s q (raiseMemFault a s)
  | result (q : Running) (v : BitVec 30) (w : Byte) (hq : q.writesResult = true) (hp : q ≠ .setPwr → w = s.power) :
      Micro s q (complete (setResult v (setPower w s)))
  | zeroLength (q : Running) (hq : q = .cont (.enter 0 0) ∨ q = .contZ (.enter 0 0)) :
      Micro s q (complete (openCount 0 s))
  | txNoByte : Micro s (.tx .start) (complete s)
  | strobe (q : Running) (c : Byte) (next : Option Running)
      (hc : c ∈ [s.build.strobeFlush, s.build.strobeStart, s.build.strobeNop])
      (hn : ∀ q' ∈ next, q'.command = q.command) : Micro s q (land next (strobe c s))
  | beginEnter {at' : BeginPoint → Running} (h : BeginPlace at') (len : Nat) (p : BeginPoint) :
      Micro s (at' .enter) (goto (at' p) (openCount len (setPhase .flushing (strobe s.build.strobeNop s))))
  | endEnter {at' : EndPoint → Running} (h : EndPlace at') (p : EndPoint) :
      Micro s (at' .enter) (goto (at' p) (setPhase .draining (strobe s.build.strobeNop s)))
  | endIdle {at' : EndPoint → Running} (h : EndPlace at') (next : Option Running)
      (hn : ∀ q' ∈ next, q'.command = (at' .idle).command) :
      Micro s (at' .idle) (land next (setPhase .idle (strobe s.build.strobeIdle s)))
  | refillEnter {restart : Bool} {at' : RefillPoint → Running} (h : RefillPlace restart at') (off rem : Nat) :
      Micro s (at' (.enter off rem))
        (goto (at' (.poll off rem)) (refillOpen restart rem (emit (.delay s.build.refillQuantum) s)))
  | delay (q : Running) (ms : Nat) (next : Option Running) (hn : ∀ q' ∈ next, q'.command = q.command) :
      Micro s q (land next (emit (.delay ms) s))
  | draw (p p' : TxPoint) (lo hi : Nat) (h : lo < hi) : Micro s (.tx p) (goto (.tx p') (randomEvent lo hi s))
  | read (q q' : Running) (a : Nat) (hr : sourceRead s q = some a) (ha : admits s.build a = true)
      (hn : q'.command = q.command) : Micro s q (goto q' (emit (.memRead a (Memory.read s.mem a)) s))
  | fillRead {at' : BeginPoint → Running} (h : BeginPlace at') (buf buf' : List Byte) (a : Nat)
      (hr : sourceRead s (at' (.fill buf)) = some a) (ha : admits s.build a = true) :
      Micro s (at' (.fill buf)) (goto (at' (.fill buf')) (markFill buf (emit (.memRead a (Memory.read s.mem a)) s)))
  | fillWrite {at' : BeginPoint → Running} (h : BeginPlace at') (src : Src) (n : Nat) (buf : List Byte) (hs : src ≠ .zero) :
      Micro s (at' (.fill buf))
        (goto (at' .start) (markFill buf (countWritten n (emit (chunkEvent src s.build 0 n buf) s))))
  | chunkWrite {restart : Bool} {at' : RefillPoint → Running} (h : RefillPlace restart at') (src : Src) (off rem n : Nat)
      (buf : List Byte) (next : Option Running) (hn : ∀ q' ∈ next, q'.command = (at' (.chunk off rem n buf)).command) :
      Micro s (at' (.chunk off rem n buf)) (land next (countWritten n (emit (chunkEvent src s.build off n buf) s)))

/-! #### The places, with where they lead and what they read -/

/-- The command of a place is the same at all its points. -/
theorem BeginPlace.command_eq {at' : BeginPoint → Running} (h : BeginPlace at') (p p' : BeginPoint) :
    (at' p).command = (at' p').command := by
  cases h <;> rfl

theorem EndPlace.command_eq {at' : EndPoint → Running} (h : EndPlace at') (p p' : EndPoint) :
    (at' p).command = (at' p').command := by
  cases h <;> rfl

theorem RefillPlace.command_eq {restart : Bool} {at' : RefillPoint → Running} (h : RefillPlace restart at')
    (p p' : RefillPoint) : (at' p).command = (at' p').command := by
  cases h with
  | ofBegin h => exact h.command_eq _ _
  | _ => rfl

/-- `BeginPlace.microStep_eq`, with the command that `after` stays in and the MemRead that the source stands before. -/
theorem BeginPlace.microStep_lands {at' : BeginPoint → Running} (h : BeginPlace at') (s : State) :
    ∃ src len after, (∀ p, microStep (at' p) s = beginStep src len at' after p s) ∧
      (∀ p, sourceRead s (at' p) = src.readAt (beginRead · len p)) ∧ src ≠ .zero ∧ Lands (at' .enter).command after := by
  cases h with
  | beginTx => exact ⟨_, _, _, fun _ => rfl, fun _ => rfl, by simp, lands_complete _⟩
  | rawTx => exact ⟨_, _, _, fun _ => rfl, fun _ => rfl, by simp, lands_goto rfl⟩
  | txByte => exact ⟨_, _, _, fun _ => rfl, fun _ => rfl, by simp, lands_goto rfl⟩
  | tx i d => exact ⟨_, _, _, fun _ => rfl, fun _ => rfl, by simp, lands_goto rfl⟩

theorem EndPlace.microStep_lands {at' : EndPoint → Running} (h : EndPlace at') (s : State) :
    ∃ after, Lands (at' .enter).command after ∧ ∀ p, microStep (at' p) s = endStep at' after p s := by
  cases h with
  | endTx => exact ⟨_, lands_complete _, fun _ => rfl⟩
  | rawTx => exact ⟨_, lands_complete _, fun _ => rfl⟩
  | txByte => exact ⟨_, lands_complete _, fun _ => rfl⟩
  | tx i d => exact ⟨_, lands_txGap i, fun _ => rfl⟩

theorem RefillPlace.microStep_lands {restart : Bool} {at' : RefillPoint → Running} (h : RefillPlace restart at')
    (s : State) :
    ∃ src after, (∀ p, at' p ≠ .cont (.enter 0 0) → at' p ≠ .contZ (.enter 0 0) →
        microStep (at' p) s = refillStep src restart at' after p s) ∧
      (∀ p, sourceRead s (at' p) = src.readAt (refillRead · p)) ∧ Lands (at' (.enter 0 0)).command after := by
  cases h with
  | cont =>
    exact ⟨.mem s.opBase, _, fun p hp _ => if_neg fun e => hp (congrArg Running.cont e), fun _ => rfl, lands_complete _⟩
  | contZ => exact ⟨.zero, _, fun p _ hp => if_neg fun e => hp (congrArg Running.contZ e), fun _ => rfl, lands_complete _⟩
  | txByte k => exact ⟨_, _, fun _ _ _ => rfl, fun _ => rfl, lands_goto rfl⟩
  | tx i d k => exact ⟨_, _, fun _ _ _ => rfl, fun _ => rfl, lands_goto rfl⟩
  | ofBegin h =>
    obtain ⟨src, len, after, e, hr, -, ha⟩ := h.microStep_lands s
    exact ⟨src, after, fun p _ _ => e (.refill p), fun p => hr (.refill p), h.command_eq _ _ ▸ ha⟩

/-! #### Every micro step is of one of the kinds -/

theorem micro_delayThen {s : State} {q : Running} (ms : Nat) {after : State → State}
    (h : Lands q.command after) :
    Micro s q (delayThen ms after s) := by
  obtain ⟨-, e⟩ | ⟨hd, e⟩ := delayThen_cases ms after s
  · obtain ⟨next, hn, e'⟩ := h (emit (.delay ms) s)
    rw [e, e']
    exact .delay q ms next hn
  · rw [e]
    exact .hang q hd

theorem micro_memRead {s : State} {q : Running} {a : Nat} (hr : sourceRead s q = some a) {q' : Byte → Running}
    (hn : ∀ v, (q' v).command = q.command) : Micro s q (memReadThen a (fun v => goto (q' v)) s) := by
  obtain ⟨ha, e⟩ | ⟨ha, e⟩ := memReadThen_cases a (fun v => goto (q' v)) s
  · exact e ▸ .read q _ a hr ha (hn _)
  · exact e ▸ .memFault q a hr ha

theorem RefillPlace.micro {restart : Bool} {at' : RefillPoint → Running} (h : RefillPlace restart at') (s : State)
    (p : RefillPoint) : Micro s (at' p) (microStep (at' p) s) := by
  by_cases hz : at' p = .cont (.enter 0 0) ∨ at' p = .contZ (.enter 0 0)
  · have e : microStep (at' p) s = complete (openCount 0 s) := by obtain hz | hz := hz <;> rw [hz] <;> rfl
    exact e ▸ .zeroLength _ hz
  obtain ⟨src, after, e, hr, ha⟩ := h.microStep_lands s
  rw [e p (fun hc => hz (.inl hc)) (fun hc => hz (.inr hc))]
  cases p with
  | enter off rem =>
    rw [refillStep]
    obtain ⟨-, e⟩ | ⟨hd, e⟩ :=
      delayThen_cases s.build.refillQuantum (fun s' => goto (at' (.poll off rem)) (refillOpen restart rem s')) s <;> rw [e]
    · exact .refillEnter h off rem
    · exact .hang _ hd
  | delay off rem =>
    exact micro_delayThen _ (lands_goto (h.command_eq _ _))
  | poll off rem =>
    exact .strobe _ _ (some _) (by simp) (by simpa using h.command_eq _ _)
  | chunk off rem n buf =>
    rw [refillStep]
    obtain ⟨base, rfl, hlt⟩ | hw := chunk_reads_or_writes src n buf
    · have hread : sourceRead s (at' (.chunk off rem n buf)) = some (base + off + buf.length) := (hr _).trans (if_pos hlt)
      rw [chunkStep_read base _ _ s hlt]
      exact micro_memRead hread fun _ => h.command_eq _ _
    · rw [chunkStep_write src _ _ s hw]
      split
      · obtain ⟨next, hn, e⟩ := ha (countWritten n (emit (chunkEvent src s.build off n buf) s))
        rw [e]
        exact .chunkWrite h src off rem n buf next (h.command_eq (.enter 0 0) _ ▸ hn)
      · exact .chunkWrite h src off rem n buf (some _) (by simpa using h.command_eq _ _)

theorem BeginPlace.micro {at' : BeginPoint → Running} (h : BeginPlace at') (s : State) (p : BeginPoint) :
    Micro s (at' p) (microStep (at' p) s) := by
  obtain ⟨src, len, after, e, hr, hs, ha⟩ := h.microStep_lands s
  cases p with
  | enter => exact e .enter ▸ .beginEnter h len _
  | idleWait => exact e .idleWait ▸ .strobe _ _ (some _) (by simp) (by simpa using h.command_eq _ _)
  | flush => exact e .flush ▸ .strobe _ _ (some _) (by simp) (by simpa using h.command_eq _ _)
  | fill buf =>
    rw [e, beginStep]
    obtain ⟨base, rfl, hlt⟩ | hw := chunk_reads_or_writes src (min len Config.fifoCapacity) buf
    · have hread : sourceRead s (at' (.fill buf)) = some (base + 0 + buf.length) := (hr _).trans (if_pos hlt)
      rw [chunkStep_read base _ _ s hlt]
      obtain ⟨hadm, e⟩ | ⟨hadm, e⟩ := memReadThen_cases (base + 0 + buf.length)
        (fun v s' => goto (at' (.fill (buf ++ [v]))) (markFill buf s')) s
      · exact e ▸ .fillRead h buf _ _ hread hadm
      · exact e ▸ .memFault _ _ hread hadm
    · rw [chunkStep_write src _ _ s hw]
      exact .fillWrite h src _ buf hs
  | start =>
    rw [e, beginStep]
    split
    · obtain ⟨next, hn, e⟩ := ha (strobe s.build.strobeStart s)
      rw [e]
      exact .strobe _ _ next (by simp) (h.command_eq .enter _ ▸ hn)
    · exact .strobe _ _ (some _) (by simp) (by simpa using h.command_eq _ _)
  | oscWait => exact e .oscWait ▸ .strobe _ _ (some _) (by simp) (by simpa using h.command_eq _ _)
  | refill p => exact (RefillPlace.ofBegin h).micro s p

theorem EndPlace.micro {at' : EndPoint → Running} (h : EndPlace at') (s : State) (p : EndPoint) :
    Micro s (at' p) (microStep (at' p) s) := by
  obtain ⟨after, ha, e⟩ := h.microStep_lands s
  cases p with
  | enter => exact e .enter ▸ .endEnter h _
  | drainWait =>
    exact e .drainWait ▸ .strobe _ _ (some _) (by simp) (by simpa using h.command_eq _ _)
  | idle =>
    obtain ⟨next, hn, e'⟩ := ha (setPhase .idle (strobe s.build.strobeIdle s))
    rw [e, endStep, e']
    exact .endIdle h next (h.command_eq .enter _ ▸ hn)

theorem micro_frame {at' : FramePoint → Running} (hb : BeginPlace fun p => at' (.first p))
    (hr : ∀ k, RefillPlace true fun p => at' (.burst k p)) (he : EndPlace fun p => at' (.last p)) (s : State)
    (p : FramePoint) : Micro s (at' p) (microStep (at' p) s) := by
  cases p with
  | first p => exact hb.micro s p
  | burst k p => exact (hr k).micro s p
  | last p => exact he.micro s p

theorem micro_tx (s : State) (p : TxPoint) : Micro s (.tx p) (microStep (.tx p) s) := by
  cases p with
  | start =>
    simp only [microStep, txStep, txStart]
    split
    · exact .draw _ _ _ _ (by decide)
    · next hm =>
      split
      · next hl => exact micro_memRead (q := .tx .start) (a := s.opBase) (if_pos ⟨hm, hl⟩) fun _ => rfl
      · exact .txNoByte
  | leadDelay r0 => exact micro_delayThen r0 (lands_txNext 0)
  | read i => exact micro_memRead (q := .tx (.read i)) (q' := fun v => .tx (.frame i v (.first .enter))) rfl fun _ => rfl
  | frame i d p => exact micro_frame (at' := fun p => .tx (.frame i d p)) (.tx i d) (.tx i d) (.tx i d) s p
  | gapDraw i => exact .draw _ _ _ _ (by decide)
  | gapDelay i ms => exact micro_delayThen ms (lands_txNext (i + 1))

theorem micro_microStep (q : Running) (s : State) : Micro s q (microStep q s) := by
  cases q with
  | encode => exact .result _ _ s.power rfl fun _ => rfl
  | frame => exact .result _ _ s.power rfl fun _ => rfl
  | setPwr => exact .result _ _ s.powerByte rfl fun h => absurd rfl h
  | txByte p => exact micro_frame (at' := .txByte) .txByte .txByte .txByte s p
  | tx p => exact micro_tx s p
  | rawTx p =>
    cases p with
    | stream p => exact BeginPlace.rawTx.micro s p
    | close p => exact EndPlace.rawTx.micro s p
  | beginTx p => exact BeginPlace.beginTx.micro s p
  | cont p => exact RefillPlace.cont.micro s p
  | contZ p => exact RefillPlace.contZ.micro s p
  | endTx p => exact EndPlace.endTx.micro s p

end Sys2Proof.Machine
end

section
/-! SUPPORT. The invariant of the machine: while a command runs it is the invariant but for SEQ, which every event and register write keeps, and which the end of a step gives back whole. -/

namespace Sys2Proof.Machine

/-! ### The parts of the invariant -/

theorem cutTo_toNat_lt (width n : Nat) : (cutTo width n).toNat < 2 ^ width := by
  rw [cutTo, BitVec.toNat_ofNat]
  exact (Nat.mod_le _ _).trans_lt (Nat.mod_lt _ (Nat.two_pow_pos width))

theorem lastStatus_concat_strobe (es : List Event) (c st : Byte) : lastStatus (es ++ [.strobe c st]) = st := by
  rw [lastStatus, List.foldl_concat]

theorem lastStatus_concat_of_not_strobe (es : List Event) {e : Event} (h : ∀ c st, e ≠ .strobe c st) :
    lastStatus (es ++ [e]) = lastStatus es := by
  rw [lastStatus, List.foldl_concat]
  cases e with
  | strobe c st => exact absurd rfl (h c st)
  | _ => rfl

theorem firstPoint_command (len : Nat) (i : Instr) : (firstPoint len i).command = i := by
  cases i <;> rfl

/-- The invariant while command `i` runs, without what it says of SEQ. -/
structure RunInv (i : Instr) (s : State) : Prop where
  memCanonical  : Memory.wf s.mem = true
  busy          : s.busy = true
  latched       : selectCommand s.lOp s.lZf = some i
  noFault       : s.fault = false
  noMemFault    : s.err ≠ .memFault
  argAddrFits   : s.argAddr.toNat < 2 ^ s.build.addrWidth
  argLenFits    : s.argLen.toNat < 2 ^ s.build.lenWidth
  lAddrFits     : s.lAddr.toNat < 2 ^ s.build.addrWidth
  lLenFits      : s.lLen.toNat < 2 ^ s.build.lenWidth
  faultAddrFits : s.faultAddr.toNat < 2 ^ s.build.addrWidth
  writtenFits   : s.sessWritten.toNat < 2 ^ s.build.lenWidth
  remainingFits : s.sessRemaining.toNat < 2 ^ s.build.lenWidth
  lastDevSeen   : s.lastDev = lastStatus s.trace

theorem Inv.not_fault {s : State} {q : Running} (h : Inv s) (hq : s.seq = some q) : s.fault = false := by
  cases hf : s.fault with
  | false => rfl
  | true => exact absurd (h.faultStops hf) (by simp [hq])

theorem Inv.runInv {s : State} {q : Running} (h : Inv s) (hq : s.seq = some q) : RunInv q.command s :=
  { h with
    busy := by simp [h.busyIffRunning, hq]
    latched := h.latchesName q hq
    noFault := h.not_fault hq
    noMemFault := fun he => by simpa [h.not_fault hq] using h.faultRecorded.mpr he }

section
variable {i : Instr} {s : State} (h : RunInv i s)
include h

theorem RunInv.land {next : Option Running} (hn : ∀ q ∈ next, q.command = i) : Inv (land next s) := by
  have hfault : s.fault = true ↔ s.err = .memFault := iff_of_false (by simp [h.noFault]) h.noMemFault
  cases next with
  | none => exact { h with busyIffRunning := rfl, latchesName := by simp, faultRecorded := hfault, faultStops := fun _ => rfl }
  | some q =>
    obtain rfl : q.command = i := hn q rfl
    exact { h with
      busyIffRunning := h.busy
      latchesName := fun q' hq' => Option.some.inj hq' ▸ h.latched
      faultRecorded := hfault
      faultStops := fun hf => absurd hf (by simp [h.noFault]) }

theorem RunInv.emit {e : Event} (he : ∀ c st, e ≠ .strobe c st) : RunInv i (emit e s) :=
  { h with lastDevSeen := h.lastDevSeen.trans (lastStatus_concat_of_not_strobe _ he).symm }

theorem RunInv.strobe (c : Byte) : RunInv i (strobe c s) :=
  { h with lastDevSeen := (lastStatus_concat_strobe _ _ _).symm }

theorem RunInv.randomEvent (lo hi : Nat) : RunInv i (randomEvent lo hi s) :=
  { h with lastDevSeen := h.lastDevSeen.trans (lastStatus_concat_of_not_strobe _ (by simp)).symm }

theorem RunInv.setPhase (p : Phase) : RunInv i (setPhase p s) := { h with }

theorem RunInv.openCount (len : Nat) : RunInv i (openCount len s) :=
  { h with writtenFits := Nat.two_pow_pos _, remainingFits := cutTo_toNat_lt _ _ }

theorem RunInv.countWritten (n : Nat) : RunInv i (countWritten n s) :=
  { h with writtenFits := cutTo_toNat_lt _ _, remainingFits := cutTo_toNat_lt _ _ }

theorem RunInv.markFill (buf : List Byte) : RunInv i (markFill buf s) := by
  unfold Machine.markFill
  split
  · exact h.setPhase _
  · exact h

theorem RunInv.refillOpen (restart : Bool) (rem : Nat) : RunInv i (refillOpen restart rem s) := by
  cases restart
  · exact h.setPhase _
  · exact (h.openCount rem).setPhase _

theorem RunInv.raiseMemFault (a : Nat) : Inv (raiseMemFault a s) :=
  { h with
    busyIffRunning := rfl
    latchesName := by simp
    faultRecorded := by simp
    faultStops := fun _ => rfl
    faultAddrFits := cutTo_toNat_lt _ _ }

end

theorem chunkEvent_ne_strobe (src : Src) (b : Build) (off n : Nat) (buf : List Byte) (c st : Byte) :
    chunkEvent src b off n buf ≠ .strobe c st := by
  cases src <;> simp [chunkEvent]

/-! ### Every step keeps it -/

theorem Micro.keepsInv {s t : State} {q : Running} (m : Micro s q t) (h : Inv s) (hq : s.seq = some q) : Inv t := by
  have hr : RunInv q.command s := h.runInv hq
  cases m with
  | hang => exact h
  | memFault _ a => exact hr.raiseMemFault a
  | result _ v w =>
    have hw : RunInv q.command (setResult v (setPower w s)) := { hr with }
    exact hw.land (next := none) (by simp)
  | zeroLength => exact (hr.openCount 0).land (next := none) (by simp)
  | txNoByte => exact hr.land (next := none) (by simp)
  | strobe _ c next _ hn => exact (hr.strobe c).land hn
  | beginEnter hp len p => exact (((hr.strobe _).setPhase _).openCount len).land (next := some _) (by simpa using hp.command_eq _ _)
  | endEnter hp p => exact ((hr.strobe _).setPhase _).land (next := some _) (by simpa using hp.command_eq _ _)
  | endIdle hp next hn => exact ((hr.strobe _).setPhase _).land hn
  | refillEnter hp off rem =>
    exact ((hr.emit (by simp)).refillOpen _ rem).land (next := some _) (by simpa using hp.command_eq _ _)
  | delay _ ms next hn => exact (hr.emit (by simp)).land hn
  | draw p p' lo hi => exact (hr.randomEvent lo hi).land (next := some _) (by simp [Running.command])
  | read _ q' a _ _ hn => exact (hr.emit (by simp)).land (next := some q') (by simpa using hn)
  | fillRead hp buf buf' a =>
    exact ((hr.emit (by simp)).markFill buf).land (next := some _) (by simpa using hp.command_eq _ _)
  | fillWrite hp src n buf =>
    exact (((hr.emit (chunkEvent_ne_strobe _ _ _ _ _)).countWritten n).markFill buf).land (next := some _)
      (by simpa using hp.command_eq _ _)
  | chunkWrite hp src off rem n buf next hn => exact ((hr.emit (chunkEvent_ne_strobe _ _ _ _ _)).countWritten n).land hn

theorem Inv.of_err {s : State} (h : Inv s) (hf : s.fault = false) {e : Err} (he : e ≠ .memFault) :
    Inv { s with err := e } :=
  { h with faultRecorded := iff_of_false (by simp [hf]) he }

theorem Inv.accept {s : State} (h : Inv s) (hf : s.fault = false) {w : Word} {i : Instr} (hw : decodeWord w = .ok i) :
    Inv (accept w i s) :=
  { h with
    busyIffRunning := rfl
    latchesName := fun q hq => by
      obtain rfl : firstPoint s.argLen.toNat i = q := Option.some.inj hq
      exact (decodeWord_eq_ok_iff.mp hw).2.trans (congrArg some (firstPoint_command _ i).symm)
    faultRecorded := iff_of_false (by simp [hf]) (by simp)
    faultStops := fun hf' => absurd hf' (by simp [hf])
    lAddrFits := h.argAddrFits
    lLenFits := h.argLenFits }

/-- What a CMD write can leave (30_encoding.md R51). -/
theorem cmdWrite_cases (w : Word) (s : State) :
    (s.fault = true ∧ cmdWrite w s = s) ∨
    (s.fault = false ∧ s.busy = true ∧ cmdWrite w s = { s with err := .cmdWhileBusy }) ∨
    (s.fault = false ∧ s.busy = false ∧ cmdWrite w s = { s with err := .illegalCmd }) ∨
    (s.fault = false ∧ s.busy = false ∧ ∃ i, decodeWord w = .ok i ∧ cmdWrite w s = accept w i s) := by
  obtain hf | hf := Bool.eq_false_or_eq_true s.fault
  · exact .inl ⟨hf, cmdWrite_of_fault hf w⟩
  obtain hb | hb := Bool.eq_false_or_eq_true s.busy
  · exact .inr (.inl ⟨hf, hb, cmdWrite_of_busy hf hb w⟩)
  cases hw : decodeWord w with
  | ok i => exact .inr (.inr (.inr ⟨hf, hb, i, rfl, cmdWrite_of_decoded hf hb hw⟩))
  | error r => exact .inr (.inr (.inl ⟨hf, hb, by simp [cmdWrite, hf, hb, hw]⟩))

theorem Inv.writeReg {s : State} (h : Inv s) (v : Word) (r : Reg) : Inv (writeReg v s r) := by
  cases r with
  | cmd =>
    obtain ⟨-, e⟩ | ⟨hf, -, e⟩ | ⟨hf, -, e⟩ | ⟨hf, -, i, hw, e⟩ := cmdWrite_cases v s <;> rw [Machine.writeReg, e]
    · exact h
    · exact h.of_err hf (by simp)
    · exact h.of_err hf (by simp)
    · exact h.accept hf hw
  | argAddr => exact { h with argAddrFits := cutTo_toNat_lt _ _ }
  | argLen => exact { h with argLenFits := cutTo_toNat_lt _ _ }
  | _ => exact { h with }

theorem Inv.resetEvent {s : State} (h : Inv s) : Inv (resetEvent s) where
  memCanonical := h.memCanonical
  busyIffRunning := rfl
  latchesName := by simp
  faultRecorded := by simp
  faultStops := fun _ => rfl
  argAddrFits := Nat.two_pow_pos _
  argLenFits := Nat.two_pow_pos _
  lAddrFits := Nat.two_pow_pos _
  lLenFits := Nat.two_pow_pos _
  faultAddrFits := Nat.two_pow_pos _
  writtenFits := Nat.two_pow_pos _
  remainingFits := Nat.two_pow_pos _
  lastDevSeen := rfl

/-- Settles O53: whoever moves, and whatever kind of step the sequencer takes, the invariant is kept. -/
theorem stepKeepsInv : Obligations.StepKeepsInv := by
  intro s t h hs
  have htaken : Inv (taken s) := { h with }
  cases move_of_step hs with
  | wait => exact htaken
  | run q hq => exact (micro_microStep q (taken s)).keepsInv htaken hq
  | store v r => exact htaken.writeReg v r
  | load d is => exact { h with }
  | memWrite a v => exact { h with memCanonical := Memory.write_wf s.mem a v h.memCanonical }
  | reset => exact htaken.resetEvent
  | timer returns => exact { h with }

/-- Settles O54: at reset every register is 0 and SEQ names no command. -/
theorem resetHasTheInvariants : Obligations.ResetHasTheInvariants := by
  refine ⟨?_, by simp [SessionInv, State.reset], by simp [PhaseInv, State.reset]⟩
  exact {
    memCanonical := State.reset_mem_wf
    busyIffRunning := rfl
    latchesName := by simp [State.reset]
    faultRecorded := by simp [State.reset]
    faultStops := fun _ => rfl
    argAddrFits := Nat.two_pow_pos _
    argLenFits := Nat.two_pow_pos _
    lAddrFits := Nat.two_pow_pos _
    lLenFits := Nat.two_pow_pos _
    faultAddrFits := Nat.two_pow_pos _
    writtenFits := Nat.two_pow_pos _
    remainingFits := Nat.two_pow_pos _
    lastDevSeen := rfl }

/-- Settles O58: with FAULT = 0 and BUSY = 0 each command's word is accepted, and either bit at 1 leaves ERR set. -/
theorem goodEndIsNotBusyAndNotFaulted : Obligations.GoodEndIsNotBusyAndNotFaulted := by
  intro s h
  have hgood : goodEnd s = true ↔ s.busy = false ∧ s.fault = false := by
    cases hq : s.seq with
    | none => simp [goodEnd, delayOutstanding, hq]
    | some q => simp [goodEnd, h.busyIffRunning, hq]
  refine ⟨hgood, hgood.trans ⟨fun ⟨hb, hf⟩ i => ?_, fun hacc => ?_⟩⟩
  · refine ⟨accept (encodeWord i) i s, ?_, rfl, congrArg some (firstPoint_command _ i), rfl⟩
    rw [hostStore_cmd, cmdWrite_of_decoded hf hb (decodeWord_encodeWord i)]
  · obtain ⟨t, ht, -, -, herr⟩ := hacc .encode
    rw [hostStore_cmd] at ht
    obtain rfl : cmdWrite (encodeWord .encode) s = t := by simpa using ht
    obtain ⟨hf, e⟩ | ⟨-, -, e⟩ | ⟨hf, hb, -⟩ | ⟨hf, hb, -⟩ := cmdWrite_cases (encodeWord .encode) s
    · rw [e, h.faultRecorded.mp hf] at herr
      cases herr
    · rw [e] at herr
      cases herr
    · exact ⟨hb, hf⟩
    · exact ⟨hb, hf⟩

end Sys2Proof.Machine
end

section
/-! SUPPORT. What a step appends to TRACE, and which registers change with which event: each rule is read off the kinds of steps of the sequencer, the other moves being no events. -/

namespace Sys2Proof.Machine

theorem markFill_eq_setPhase (buf : List Byte) (s : State) :
    markFill buf s = setPhase (if buf.isEmpty then .initialFill else s.phase) s := by
  unfold markFill
  split <;> rfl

/-! ### The trace (10_state.md R25, 00_scope.md R5) -/

theorem Micro.trace_cases {s t : State} {q : Running} (m : Micro s q t) :
    t.trace = s.trace ∨ ∃ e, t.trace = s.trace ++ [e] := by
  cases m with
  | refillEnter => exact .inr ⟨_, (silent_refillOpen _ _ _).trace_eq⟩
  | fillRead => exact .inr ⟨_, (silent_markFill _ _).trace_eq⟩
  | fillWrite => exact .inr ⟨_, (silent_markFill _ _).trace_eq⟩
  | _ => simp

theorem cmdWrite_trace (w : Word) (s : State) : (cmdWrite w s).trace = s.trace := by
  obtain ⟨-, e⟩ | ⟨-, -, e⟩ | ⟨-, -, e⟩ | ⟨-, -, i, -, e⟩ := cmdWrite_cases w s <;> rw [e]
  rfl

theorem writeReg_trace (v : Word) (s : State) (r : Reg) : (writeReg v s r).trace = s.trace := by
  cases r with
  | cmd => exact cmdWrite_trace v s
  | _ => rfl

/-- A step that lengthens TRACE is one of the running command. -/
theorem Move.runs_of_trace {s t : State} {e : Event} (m : Move s t) (ht : t.trace = s.trace ++ [e]) :
    ∃ q, s.seq = some q ∧ Micro (taken s) q t := by
  cases m with
  | run q hq => exact ⟨q, hq, micro_microStep q _⟩
  | store v r => simp [writeReg_trace, taken] at ht
  | reset => simp at ht
  | _ => simp [taken] at ht

/-- Settles O51: only the sequencer's steps are events, one each at most. -/
theorem traceGrowsByAtMostOneEvent : Obligations.TraceGrowsByAtMostOneEvent := by
  intro s t h
  cases move_of_step h with
  | run q hq =>
    obtain hs | he := (micro_microStep q (taken s)).trace_cases
    · exact .inl hs
    · exact .inr (.inl he)
  | store v r => exact .inl (writeReg_trace v _ r)
  | reset rest hi => exact .inr (.inr ⟨rest, hi, rfl⟩)
  | _ => exact .inl rfl

/-! ### Writers of RESULT and POWER (10_state.md R17, R18) -/

theorem writesResult_iff {q : Running} : q.writesResult = true ↔ q = .encode ∨ q = .frame ∨ q = .setPwr := by
  cases q <;> simp [Running.writesResult]

theorem microStep_result {q : Running} (hq : q.writesResult = false) (s : State) : (microStep q s).result = s.result :=
  (shape_microStep hq s).untouched.result

theorem microStep_power {q : Running} (hq : q ≠ .setPwr) (s : State) : (microStep q s).power = s.power := by
  cases hw : q.writesResult with
  | false => exact (shape_microStep hw s).untouched.power
  | true =>
    obtain rfl | rfl | rfl := writesResult_iff.mp hw
    · rfl
    · rfl
    · exact absurd rfl hq

theorem writeReg_result_power (v : Word) (s : State) (r : Reg) :
    (writeReg v s r).result = s.result ∧ (writeReg v s r).power = s.power := by
  cases r with
  | cmd =>
    obtain ⟨-, e⟩ | ⟨-, -, e⟩ | ⟨-, -, e⟩ | ⟨-, -, i, -, e⟩ := cmdWrite_cases v s <;>
      rw [writeReg, e] <;> exact ⟨rfl, rfl⟩
  | _ => exact ⟨rfl, rfl⟩

/-- Settles O49: of all moves only reset and the steps of ENCODE, FRAME and SETPWR write RESULT, and only reset and SETPWR
write POWER. -/
theorem resultAndPowerWriters : Obligations.ResultAndPowerWriters := by
  intro s t h
  cases move_of_step h with
  | run q hq =>
    refine ⟨fun hr => .inr ?_, fun hp => .inr ?_⟩
    · cases hw : q.writesResult with
      | false => exact absurd (microStep_result hw (taken s)) hr
      | true => simpa [hq] using writesResult_iff.mp hw
    · by_cases hw : q = .setPwr
      · rw [hq, hw]
      · exact absurd (microStep_power hw (taken s)) hp
  | store v r =>
    obtain ⟨hr, hp⟩ := writeReg_result_power v (taken s) r
    exact ⟨fun h => absurd hr h, fun h => absurd hp h⟩
  | reset rest hi => exact ⟨fun _ => .inl (by rw [hi]; rfl), fun _ => .inl (by rw [hi]; rfl)⟩
  | _ => exact ⟨fun h => absurd rfl h, fun h => absurd rfl h⟩

/-! ### Source reads (60_exceptions.md R95) -/

theorem chunkEvent_ne_memRead (src : Src) (b : Build) (off n : Nat) (buf : List Byte) (a : Nat) (v : Byte) :
    chunkEvent src b off n buf ≠ .memRead a v := by
  cases src <;> simp [chunkEvent]

/-- The step neither records a fault nor reads host memory. -/
def NoRead (s t : State) : Prop :=
  t.fault = s.fault ∧ t.err = s.err ∧ t.faultAddr = s.faultAddr ∧ ∀ a v, t.trace ≠ s.trace ++ [.memRead a v]

theorem Micro.noRead {s t : State} {q : Running} (m : Micro s q t) (h : sourceRead s q = none) : NoRead s t := by
  cases m with
  | memFault _ a hr => simp [h] at hr
  | read _ q' a hr => simp [h] at hr
  | fillRead hp buf buf' a hr => simp [h] at hr
  | @refillEnter restart at' hp off rem => cases restart <;> simp [NoRead, refillOpen]
  | fillWrite => simp [NoRead, markFill_eq_setPhase, chunkEvent_ne_memRead]
  | chunkWrite => simp [NoRead, chunkEvent_ne_memRead]
  | _ => simp [NoRead]

theorem sourceRead_eq_none {s : State} {q : Running}
    (h : q.command ∈ [Instr.encode, .frame, .setPwr, .txByte, .contZ, .endTx]) : sourceRead s q = none := by
  cases q with
  | encode | frame | setPwr | txByte | contZ | endTx => rfl
  | tx | rawTx | beginTx | cont => simp [Running.command] at h

/-- Settles O45: a memory fault and a MemRead are steps that stand before a source read, which six commands never do. -/
theorem onlySourceReadsCanFault : Obligations.OnlySourceReadsCanFault := by
  have key : ∀ (i : Instr) (s t : State), exec i s = .next t →
      (∀ q, s.seq = some q → q.command = i → sourceRead s q = none) →
      NoRead s t := by
    intro i s t he h
    obtain ⟨q, hq, hc, rfl⟩ := exec_next he
    exact (micro_microStep q s).noRead (h q hq hc)
  refine ⟨fun s t q hq hr he => key _ s t he fun q' hq' _ => ?_, fun i s t hi he => key i s t he fun q _ hc => ?_⟩
  · obtain rfl : q = q' := Option.some.inj (hq.symm.trans hq')
    exact hr
  · exact sourceRead_eq_none (hc ▸ hi)

/-! ### PHASE and its events (10_state.md R10) -/

theorem BeginPlace.fillEvent {src : Src} (hs : src ≠ .zero) (b : Build) (off n : Nat) (buf : List Byte) :
    ∃ bs, chunkEvent src b off n buf = .writeBuf bs := by
  cases src with
  | zero => exact absurd rfl hs
  | _ => exact ⟨_, rfl⟩

/-- A step of the sequencer that changes PHASE, with its event: the rows of R10's table. -/
def PhaseRow (s t : State) : Prop :=
  (t.phase = .flushing ∧ ∃ at' st, BeginPlace at' ∧ s.seq = some (at' .enter) ∧
    t.trace = s.trace ++ [.strobe s.build.strobeNop st]) ∨
  (t.phase = .initialFill ∧ ∃ at', BeginPlace at' ∧ s.seq = some (at' (.fill [])) ∧
    ((∃ a v, t.trace = s.trace ++ [.memRead a v]) ∨ ∃ bs, t.trace = s.trace ++ [.writeBuf bs])) ∨
  (t.phase = .streaming ∧ ∃ restart at' off rem, RefillPlace restart at' ∧ s.seq = some (at' (.enter off rem)) ∧
    t.trace = s.trace ++ [.delay s.build.refillQuantum]) ∨
  (t.phase = .draining ∧ ∃ at' st, EndPlace at' ∧ s.seq = some (at' .enter) ∧
    t.trace = s.trace ++ [.strobe s.build.strobeNop st]) ∨
  (t.phase = .idle ∧ ∃ at' st, EndPlace at' ∧ s.seq = some (at' .idle) ∧
    t.trace = s.trace ++ [.strobe s.build.strobeIdle st])

theorem Micro.phaseRow {s t : State} {q : Running} (m : Micro s q t) (hq : s.seq = some q) (h : t.phase ≠ s.phase) :
    PhaseRow s t := by
  cases m with
  | beginEnter hp len p => exact .inl ⟨rfl, _, _, hp, hq, rfl⟩
  | fillRead hp buf buf' a =>
    cases buf with
    | nil => exact .inr (.inl ⟨rfl, _, hp, hq, .inl ⟨_, _, rfl⟩⟩)
    | cons => exact absurd rfl h
  | fillWrite hp src n buf hs =>
    cases buf with
    | nil =>
      obtain ⟨bs, hbs⟩ := BeginPlace.fillEvent hs s.build 0 n []
      exact .inr (.inl ⟨rfl, _, hp, hq, .inr ⟨bs, by rw [hbs]; rfl⟩⟩)
    | cons => exact absurd rfl h
  | refillEnter hp off rem =>
    exact .inr (.inr (.inl ⟨rfl, _, _, off, rem, hp, hq, (silent_refillOpen _ _ _).trace_eq⟩))
  | endEnter hp p => exact .inr (.inr (.inr (.inl ⟨rfl, _, _, hp, hq, rfl⟩)))
  | endIdle hp next => exact .inr (.inr (.inr (.inr ⟨land_phase _ _, _, _, hp, hq, land_trace _ _⟩)))
  | _ => simp at h

theorem writeReg_phase (v : Word) (s : State) (r : Reg) : (writeReg v s r).phase = s.phase := by
  cases r with
  | cmd => obtain ⟨-, e⟩ | ⟨-, -, e⟩ | ⟨-, -, e⟩ | ⟨-, -, i, -, e⟩ := cmdWrite_cases v s <;> rw [writeReg, e]; rfl
  | _ => rfl

/-- Settles O57: reset and the steps of five points are the only moves that write PHASE. -/
theorem phaseChangesOnlyWithItsEvent : Obligations.PhaseChangesOnlyWithItsEvent := by
  intro s t h hne
  cases move_of_step h with
  | run q hq => exact .inr ((micro_microStep q (taken s)).phaseRow hq hne)
  | store v r => exact absurd (writeReg_phase v _ r) hne
  | reset rest hi => exact .inl ⟨rest, hi, rfl⟩
  | _ => exact absurd rfl hne

/-! ### The frame of the streaming and pacing commands -/

theorem Micro.draws_eq {s t : State} {q : Running} (m : Micro s q t) (h : q.command ≠ .tx) :
    t.rndIn = s.rndIn ∧ t.rndDraws = s.rndDraws := by
  cases m with
  | draw => exact absurd rfl h
  | @refillEnter restart => cases restart <;> exact ⟨rfl, rfl⟩
  | fillRead | fillWrite => simp [markFill_eq_setPhase]
  | _ => simp

theorem Micro.device_eq {s t : State} {q : Running} (m : Micro s q t)
    (h : ∀ c st, t.trace ≠ s.trace ++ [.strobe c st]) :
    t.lastDev = s.lastDev ∧ t.devIn = s.devIn ∧ t.devDraws = s.devDraws := by
  cases m with
  | strobe | endIdle => exact absurd (land_trace _ _) (h _ _)
  | beginEnter | endEnter => exact absurd rfl (h _ _)
  | @refillEnter restart => cases restart <;> exact ⟨rfl, rfl, rfl⟩
  | fillRead | fillWrite => simp [markFill_eq_setPhase]
  | _ => simp

theorem BeginPlace.command_ne_endTx {at' : BeginPoint → Running} (h : BeginPlace at') (p : BeginPoint) :
    (at' p).command ≠ .endTx := by
  cases h <;> simp [Running.command]

theorem RefillPlace.command_ne_endTx {restart : Bool} {at' : RefillPoint → Running} (h : RefillPlace restart at')
    (p : RefillPoint) : (at' p).command ≠ .endTx := by
  cases h with
  | ofBegin h => exact h.command_ne_endTx _
  | _ => simp [Running.command]

theorem chunkEvent_cases (src : Src) (b : Build) (off n : Nat) (buf : List Byte) :
    (∃ bs, chunkEvent src b off n buf = .writeBuf bs) ∨ chunkEvent src b off n buf = .writeZeros n := by
  cases src with
  | zero => exact .inr rfl
  | _ => exact .inl ⟨_, rfl⟩

/-- A step that changes the session counters, with its event (10_state.md R19). -/
def CountRow (s t : State) : Prop :=
  (∃ bs, t.trace = s.trace ++ [.writeBuf bs]) ∨ (∃ n, t.trace = s.trace ++ [.writeZeros n]) ∨
  (∃ at' st, BeginPlace at' ∧ s.seq = some (at' .enter) ∧ t.trace = s.trace ++ [.strobe s.build.strobeNop st]) ∨
  (∃ at' off rem, RefillPlace true at' ∧ s.seq = some (at' (.enter off rem)) ∧
    t.trace = s.trace ++ [.delay s.build.refillQuantum]) ∨
  ((s.seq = some (.cont (.enter 0 0)) ∨ s.seq = some (.contZ (.enter 0 0))) ∧ t.trace = s.trace ∧ t.seq = none)

/-- A step leaves the session counters, or is of a row that changes them, and then not of END. -/
theorem Micro.countRow {s t : State} {q : Running} (m : Micro s q t) (hq : s.seq = some q) :
    (t.sessWritten = s.sessWritten ∧ t.sessRemaining = s.sessRemaining) ∨ (q.command ≠ .endTx ∧ CountRow s t) := by
  have write : ∀ src b off n buf, t.trace = s.trace ++ [chunkEvent src b off n buf] → CountRow s t := by
    intro src b off n buf ht
    obtain ⟨bs, e⟩ | e := chunkEvent_cases src b off n buf
    · exact .inl ⟨bs, e ▸ ht⟩
    · exact .inr (.inl ⟨n, e ▸ ht⟩)
  cases m with
  | zeroLength _ hz =>
    exact .inr ⟨by obtain rfl | rfl := hz <;> simp [Running.command],
      .inr (.inr (.inr (.inr ⟨by simpa [hq] using hz, rfl, rfl⟩)))⟩
  | beginEnter hp len p => exact .inr ⟨hp.command_ne_endTx _, .inr (.inr (.inl ⟨_, _, hp, hq, rfl⟩))⟩
  | @refillEnter restart at' hp off rem =>
    cases restart with
    | false => exact .inl ⟨rfl, rfl⟩
    | true => exact .inr ⟨hp.command_ne_endTx _, .inr (.inr (.inr (.inl ⟨_, off, rem, hp, hq, rfl⟩)))⟩
  | fillRead => exact .inl (by simp [markFill_eq_setPhase])
  | fillWrite hp src n buf => exact .inr ⟨hp.command_ne_endTx _, write src s.build 0 n buf (silent_markFill _ _).trace_eq⟩
  | chunkWrite hp src off rem n buf next => exact .inr ⟨hp.command_ne_endTx _, write src s.build off n buf (land_trace _ _)⟩
  | _ => exact .inl (by simp)

/-- Settles O48: what each kind of step leaves alone, for the seven commands that are not one silent step. -/
theorem streamCommandsFrame : Obligations.StreamCommandsFrame := by
  intro i s t hi he
  obtain ⟨q, hq, rfl, rfl⟩ := exec_next he
  have m := micro_microStep q s
  have hw : q.writesResult = false := by
    cases q with
    | encode | frame | setPwr => simp [Running.command] at hi
    | _ => rfl
  have hu := (shape_microStep hw s).untouched
  refine ⟨hu.result, hu.power, m.draws_eq, fun hend => ?_, m.trace_cases, m.device_eq, fun hne => ?_⟩
  · exact (m.countRow hq).resolve_right fun h => h.1 hend
  · obtain ⟨hw, hr⟩ | ⟨-, h⟩ := m.countRow hq
    · exact absurd hne (by simp [hw, hr])
    · exact h

/-! ### Events the ports allow (20_memory.md R37, R40; 60_exceptions.md R104, R106) -/

theorem nextRandom_mem_range (s : State) {lo hi : Nat} (h : lo < hi) : lo ≤ s.nextRandom lo hi ∧ s.nextRandom lo hi < hi := by
  have := Nat.mod_lt s.nextRaw (Nat.sub_pos_of_lt h)
  unfold State.nextRandom
  omega

theorem length_prnBytes (b : Build) (t : Prn) : (prnBytes b t).length = 64 := by
  cases t <;> simp [prnBytes]

theorem length_romSlice_le (b : Build) (t : Prn) (off n : Nat) : (romSlice b t off n).length ≤ 64 := by
  simp [romSlice, length_prnBytes]

theorem chunkEvent_ok {src : Src} {b : Build} {m : List Host.Cell} {off n : Nat} {buf : List Byte}
    (hn : src = .zero → n ≤ 64) (hb : buf.length ≤ 64) : eventOk b m (chunkEvent src b off n buf) := by
  cases src with
  | zero => exact hn rfl
  | rom t => exact length_romSlice_le b t off n
  | mem base => exact hb

theorem BeginPlace.fill_length_le {at' : BeginPoint → Running} (h : BeginPlace at') {w r len : Nat} {buf : List Byte}
    (hok : runningOk w r len (at' (.fill buf))) : buf.length ≤ 64 := by
  have hfill : ∀ {len}, beginOk w r len (.fill buf) → buf.length ≤ 64 :=
    fun ⟨_, _, hb⟩ => hb.trans (Nat.min_le_right _ 64)
  cases h with
  | tx i d => exact hfill hok.2
  | _ => exact hfill hok

theorem RefillPlace.chunk_le {restart : Bool} {at' : RefillPoint → Running} (h : RefillPlace restart at')
    {w r len off rem n : Nat} {buf : List Byte} (hok : runningOk w r len (at' (.chunk off rem n buf))) :
    n ≤ 15 ∧ buf.length ≤ n := by
  have hchunk : ∀ {len restart}, refillOk w r len restart (.chunk off rem n buf) → n ≤ 15 ∧ buf.length ≤ n :=
    fun ⟨_, _, _, _, _, hn, hb⟩ => ⟨hn, hb⟩
  cases h with
  | cont | contZ => exact hchunk (hok.resolve_left (by simp))
  | txByte k => exact hchunk hok.2.2
  | tx i d k => exact hchunk hok.2.2.2
  | ofBegin h =>
    cases h with
    | tx i d => exact hchunk hok.2.2.2
    | _ => exact hchunk hok.2.2

theorem Micro.eventOk {s t : State} {q : Running} {e : Event} (m : Micro s q t)
    (hok : runningOk s.sessWritten.toNat s.sessRemaining.toNat s.opLength q) (ht : t.trace = s.trace ++ [e]) :
    eventOk s.build s.mem e := by
  have key : ∀ {e' : Event}, t.trace = s.trace ++ [e'] → Machine.eventOk s.build s.mem e' →
      Machine.eventOk s.build s.mem e := by
    intro e' h he
    obtain rfl : e' = e := by simpa [h] using ht
    exact he
  cases m with
  | strobe _ c next hc => exact key (land_trace _ _) (by simp at hc; simp [Machine.eventOk, hc])
  | beginEnter | endEnter => exact key rfl (by simp [Machine.eventOk])
  | endIdle => exact key (land_trace _ _) (by simp [Machine.eventOk])
  | refillEnter => exact key (silent_refillOpen _ _ _).trace_eq trivial
  | delay _ ms next => exact key (land_trace _ _) trivial
  | draw p p' lo hi h => exact key rfl (nextRandom_mem_range s h)
  | read _ q' a hr ha => exact key rfl ⟨ha, rfl⟩
  | fillRead hp buf buf' a hr ha => exact key (silent_markFill _ _).trace_eq ⟨ha, rfl⟩
  | fillWrite hp src n buf hs =>
    exact key (silent_markFill _ _).trace_eq (chunkEvent_ok (fun h => absurd h hs) (hp.fill_length_le hok))
  | chunkWrite hp src off rem n buf next =>
    obtain ⟨hn, hb⟩ := hp.chunk_le hok
    exact key (land_trace _ _) (chunkEvent_ok (fun _ => by omega) (by omega))
  | _ => simp at ht

/-- Settles O52: only the running command's steps are events, and each kind of them is one the ports allow, the chunks being
within their bounds where the counters fit the point of SEQ. -/
theorem appendedEventsAreAllowed : Obligations.AppendedEventsAreAllowed := by
  intro s t e hok h ht
  obtain ⟨q, hq, m⟩ := (move_of_step h).runs_of_trace ht
  exact m.eventOk (hok q hq) ht

/-- Settles O43: the draw is a remainder by the range's size; `r - lo` is a raw number for `r`. -/
theorem randomDrawsCoverTheirRange : Obligations.RandomDrawsCoverTheirRange := by
  refine fun s lo hi h => ⟨nextRandom_mem_range s h, fun r hlo hhi => ⟨r - lo, fun rest => ?_⟩⟩
  have hdraw : State.nextRandom { s with rndIn := (r - lo) :: rest } lo hi = lo + (r - lo) % (hi - lo) := rfl
  rw [hdraw, Nat.mod_eq_of_lt (by omega)]
  omega

end Sys2Proof.Machine
end

section
/-! SUPPORT. PHASE and the session counters beside the point of SEQ (10_state.md R10, R19): each procedure keeps them in step, whatever command it stands in, if it does so at its own points and what follows it does so at its end. -/

namespace Sys2Proof.Machine

/-! ### A step that may hang or fault, by its outcomes -/

/-- What holds of the state itself and after the Delay holds of a step that is a Delay. -/
theorem delayThen_rule {P : State → Prop} {ms : Nat} {after : State → State} {s : State} (hang : s.delayReturns = false → P s)
    (run : s.delayReturns = true → P (after (emit (.delay ms) s))) : P (delayThen ms after s) := by
  obtain ⟨hd, e⟩ | ⟨hd, e⟩ := delayThen_cases ms after s <;> rw [e]
  · exact run hd
  · exact hang hd

/-- What holds after the MemFault and after the read holds of a step that is a MemRead. -/
theorem memReadThen_rule {P : State → Prop} {a : Nat} {after : Byte → State → State} {s : State}
    (fault : admits s.build a = false → P (raiseMemFault a s))
    (read : admits s.build a = true → P (after (Memory.read s.mem a) (emit (.memRead a (Memory.read s.mem a)) s))) :
    P (memReadThen a after s) := by
  obtain ⟨ha, e⟩ | ⟨ha, e⟩ := memReadThen_cases a after s <;> rw [e]
  · exact read ha
  · exact fault ha

/-- What holds after the MemFault, after the read of the next byte and after the write event holds of a step of a chunk. -/
theorem chunkStep_rule {P : State → Prop} {src : Src} {off n : Nat} {buf : List Byte} {onRead : List Byte → State → State}
    {onWrite : State → State} {s : State} (fault : ∀ a, admits s.build a = false → P (raiseMemFault a s))
    (read : ∀ base a v, src = .mem base → a = base + off + buf.length → v = Memory.read s.mem a → buf.length < n →
      P (onRead (buf ++ [v]) (emit (.memRead a v) s)))
    (write : (∀ base, src = .mem base → n ≤ buf.length) →
      P (onWrite (countWritten n (emit (chunkEvent src s.build off n buf) s)))) :
    P (chunkStep src off n buf onRead onWrite s) := by
  obtain ⟨base, rfl, hlt⟩ | hw := chunk_reads_or_writes src n buf
  · rw [chunkStep_read base _ _ s hlt]
    exact memReadThen_rule (fault _) fun _ => read base _ _ rfl rfl rfl hlt
  · rw [chunkStep_write src _ _ s hw]
    exact write hw

/-! ### PHASE -/

theorem phaseInv_goto {q : Running} {s : State} : PhaseInv (goto q s) ↔ runningPhase s.phase q := by
  simp [PhaseInv]

theorem phaseInv_of_waiting {s : State} (h : s.seq = none) : PhaseInv s := by
  simp [PhaseInv, h]

section
variable {s : State}

theorem refillStep_phase {src : Src} {restart : Bool} {at' : RefillPoint → Running} {after : State → State} {p : RefillPoint}
    {entry : Phase} (hs : PhaseInv s) (hp : refillPhase entry s.phase p)
    (hat : ∀ ph p, refillPhase entry ph p → runningPhase ph (at' p))
    (ha : ∀ u : State, u.phase = .streaming → PhaseInv (after u)) : PhaseInv (refillStep src restart at' after p s) := by
  cases p with
  | enter off rem => exact delayThen_rule (fun _ => hs) fun _ => phaseInv_goto.mpr (hat _ (.poll off rem) rfl)
  | delay off rem => exact delayThen_rule (fun _ => hs) fun _ => phaseInv_goto.mpr (hat _ (.poll off rem) hp)
  | poll off rem => exact phaseInv_goto.mpr (hat _ (.chunk off rem _ []) hp)
  | chunk off rem n buf =>
    refine chunkStep_rule (fun a _ => phaseInv_of_waiting rfl)
      (fun base a v _ _ _ _ => phaseInv_goto.mpr (hat _ (.chunk off rem n (buf ++ [v])) hp)) fun _ => ?_
    split
    · exact ha _ hp
    · exact phaseInv_goto.mpr (hat _ (.delay (off + n) (rem - n)) hp)

/-- `short` says that the begin is one of at most 64 bytes which never comes to its oscillator wait. -/
theorem beginStep_phase {src : Src} {len : Nat} {at' : BeginPoint → Running} {after : State → State} {p : BeginPoint}
    (short : Prop) (hshort : short → len ≤ Config.fifoCapacity ∧ beforeOscWait p = true)
    (hs : PhaseInv s) (hp : beginPhase s.phase p)
    (hat : ∀ ph p, beginPhase ph p → (short → beforeOscWait p = true) → runningPhase ph (at' p))
    (ha : ∀ u : State, (u.phase = .initialFill ∨ ¬ short ∧ u.phase = .streaming) → PhaseInv (after u)) :
    PhaseInv (beginStep src len at' after p s) := by
  have hpoll : ∀ ph, ph = .flushing → runningPhase ph (at' (if isIdle s.nextStatus then .flush else .idleWait)) := by
    intro ph h
    split
    · exact hat _ .flush h fun _ => rfl
    · exact hat _ .idleWait h fun _ => rfl
  cases p with
  | enter => exact phaseInv_goto.mpr (hpoll _ rfl)
  | idleWait => exact phaseInv_goto.mpr (hpoll _ hp)
  | flush => exact phaseInv_goto.mpr (hat _ (.fill []) hp fun _ => rfl)
  | fill buf =>
    have hmark : ∀ u : State, u.phase = s.phase → (markFill buf u).phase = .initialFill := by
      intro u hu
      have hp : s.phase = if buf.isEmpty then .flushing else .initialFill := hp
      cases buf <;> simp [markFill_eq_setPhase, hu, hp]
    refine chunkStep_rule (fun a _ => phaseInv_of_waiting rfl) (fun base a v _ _ _ _ => ?_) fun _ => ?_
    · exact phaseInv_goto.mpr (hat _ (.fill (buf ++ [v]))
        (by simpa [beginPhase] using hmark (emit (.memRead a v) s) rfl) fun _ => rfl)
    · exact phaseInv_goto.mpr (hat _ .start (hmark _ rfl) fun _ => rfl)
  | start =>
    rw [beginStep]
    split
    · exact ha _ (.inl hp)
    · next hlen => exact phaseInv_goto.mpr (hat _ .oscWait hp fun h => absurd (hshort h).1 hlen)
  | oscWait =>
    have hlong : ¬ short := fun h => by simpa [beforeOscWait] using (hshort h).2
    rw [beginStep]
    refine phaseInv_goto.mpr ?_
    split
    · exact hat _ (.refill (.enter _ _)) hp fun h => absurd h hlong
    · exact hat _ .oscWait hp fun h => absurd h hlong
  | refill p =>
    have hlong : ¬ short := fun h => by simpa [beforeOscWait] using (hshort h).2
    exact refillStep_phase hs hp (fun ph p h => hat ph (.refill p) h fun h => absurd h hlong)
      fun u hu => ha u (.inr ⟨hlong, hu⟩)

theorem endStep_phase {at' : EndPoint → Running} {after : State → State} {p : EndPoint} (hp : endPhase s.phase p)
    (hat : ∀ ph p, endPhase ph p → runningPhase ph (at' p)) (ha : ∀ u : State, PhaseInv (after u)) :
    PhaseInv (endStep at' after p s) := by
  have hpoll : ∀ ph, ph = .draining → runningPhase ph (at' (if isDrained s.nextStatus then .idle else .drainWait)) := by
    intro ph h
    split
    · exact hat _ .idle h
    · exact hat _ .drainWait h
  cases p with
  | enter => exact (phaseInv_goto (s := setPhase .draining (strobe s.build.strobeNop s))).mpr (hpoll _ rfl)
  | drainWait => exact phaseInv_goto.mpr (hpoll _ hp)
  | idle => exact ha _

theorem frameStep_phase {d : Byte} {at' : FramePoint → Running} {after : State → State} {p : FramePoint} (hs : PhaseInv s)
    (hp : framePhase s.phase p) (hat : ∀ ph p, framePhase ph p → runningPhase ph (at' p))
    (ha : ∀ u : State, PhaseInv (after u)) : PhaseInv (frameStep d at' after p s) := by
  cases p with
  | first p =>
    obtain ⟨hb, hp⟩ := hp
    refine beginStep_phase True (fun _ => ⟨le_rfl, hb⟩) hs hp (fun ph p h hb => hat _ (.first p) ⟨hb trivial, h⟩) ?_
    rintro u (hu | ⟨hl, -⟩)
    · exact phaseInv_goto.mpr (hat _ (.burst 1 _) ⟨le_rfl, hu⟩)
    · exact absurd trivial hl
  | burst k p =>
    obtain ⟨hk, hp⟩ := hp
    refine refillStep_phase hs hp (fun ph p h => hat _ (.burst k p) ⟨hk, h⟩) fun u hu => phaseInv_goto.mpr ?_
    split
    · exact hat _ (.burst (k + 1) _) ⟨by omega, by simp [refillPhase, hu]; omega⟩
    · exact hat _ (.last .enter) trivial
  | last p => exact endStep_phase hp (fun ph p h => hat _ (.last p) h) ha

theorem phaseInv_txGap (i : Nat) (u : State) : PhaseInv (txGap i u) := by
  unfold txGap
  split <;> exact phaseInv_goto.mpr trivial

theorem phaseInv_txNext (i : Nat) (u : State) : PhaseInv (txNext i u) := by
  unfold txNext
  split
  · exact phaseInv_goto.mpr trivial
  · exact phaseInv_of_waiting rfl

theorem phaseInv_txRead (i : Nat) : PhaseInv (txRead i s) :=
  memReadThen_rule (fun _ => phaseInv_of_waiting rfl) fun _ => phaseInv_goto.mpr ⟨rfl, trivial⟩

theorem txStep_phase {p : TxPoint} (hs : PhaseInv s) (hp : runningPhase s.phase (.tx p)) : PhaseInv (txStep p s) := by
  cases p with
  | start =>
    simp only [txStep, txStart]
    split
    · exact phaseInv_goto.mpr trivial
    · split
      · exact phaseInv_txRead 0
      · exact phaseInv_of_waiting rfl
  | leadDelay r0 => exact delayThen_rule (fun _ => hs) fun _ => phaseInv_txNext 0 _
  | read i => exact phaseInv_txRead i
  | frame i d p => exact frameStep_phase hs hp (fun _ _ h => h) (phaseInv_txGap i)
  | gapDraw i => exact phaseInv_goto.mpr trivial
  | gapDelay i ms => exact delayThen_rule (fun _ => hs) fun _ => phaseInv_txNext (i + 1) _

theorem contStep_phase {src : Src} {at' : RefillPoint → Running} {p : RefillPoint} (hs : PhaseInv s)
    (hp : contPhase s.phase p) (hat : ∀ ph p, contPhase ph p → runningPhase ph (at' p)) : PhaseInv (contStep src at' p s) := by
  have hrefill : ∀ ph p, refillPhase s.phase ph p → contPhase ph p := by
    intro ph p h
    cases p with
    | enter => trivial
    | _ => exact h
  unfold contStep
  split
  · exact phaseInv_of_waiting rfl
  · refine refillStep_phase (entry := s.phase) hs ?_ (fun ph p h => hat ph p (hrefill ph p h)) fun _ _ => phaseInv_of_waiting rfl
    cases p with
    | enter => rfl
    | _ => exact hp

/-- Every step of the running command keeps PHASE the state of its point. -/
theorem microStep_phase {q : Running} (hs : PhaseInv s) (hq : s.seq = some q) : PhaseInv (microStep q s) := by
  have hp := hs q hq
  have hdone : ∀ u : State, PhaseInv (complete u) := fun _ => phaseInv_of_waiting rfl
  cases q with
  | encode | frame | setPwr => exact hdone _
  | txByte p => exact frameStep_phase hs hp (fun _ _ h => h) hdone
  | tx p => exact txStep_phase hs hp
  | rawTx p =>
    cases p with
    | stream p =>
      exact beginStep_phase False False.elim hs hp (fun _ _ h _ => h) fun _ _ => phaseInv_goto.mpr trivial
    | close p => exact endStep_phase hp (fun _ _ h => h) hdone
  | beginTx p => exact beginStep_phase False False.elim hs hp (fun _ _ h _ => h) fun u _ => hdone u
  | cont p => exact contStep_phase hs hp fun _ _ h => h
  | contZ p => exact contStep_phase hs hp fun _ _ h => h
  | endTx p => exact endStep_phase hp (fun _ _ h => h) hdone

end

theorem firstPoint_phase (ph : Phase) (len : Nat) (i : Instr) : runningPhase ph (firstPoint len i) := by
  cases i <;> simp [firstPoint, runningPhase, framePhase, beginPhase, beforeOscWait, endPhase, contPhase]

theorem writeReg_phaseInv {s : State} (h : PhaseInv s) (v : Word) (r : Reg) : PhaseInv (writeReg v s r) := by
  cases r with
  | cmd =>
    obtain ⟨-, e⟩ | ⟨-, -, e⟩ | ⟨-, -, e⟩ | ⟨-, -, i, -, e⟩ := cmdWrite_cases v s <;> rw [writeReg, e]
    · exact h
    · exact h
    · exact h
    · intro q hq
      obtain rfl : firstPoint s.argLen.toNat i = q := Option.some.inj hq
      exact firstPoint_phase _ _ i
  | _ => exact h

theorem step_keeps_phaseInv {s t : State} (h : PhaseInv s) (hs : step s = .next t) : PhaseInv t := by
  cases move_of_step hs with
  | run q hq => exact microStep_phase (s := taken s) h hq
  | store v r => exact writeReg_phaseInv (s := taken s) h v r
  | reset => exact phaseInv_of_waiting rfl
  | _ => exact h

theorem BeginPlace.phase_fill {at' : BeginPoint → Running} (h : BeginPlace at') {ph : Phase}
    (hp : runningPhase ph (at' (.fill []))) : ph = .flushing := by
  cases h with
  | txByte => exact hp.2
  | tx i d => exact hp.2
  | _ => exact hp

theorem EndPlace.phase_idle {at' : EndPoint → Running} (h : EndPlace at') {ph : Phase}
    (hp : runningPhase ph (at' .idle)) : ph = .draining := by
  cases h <;> exact hp

/-- Settles O56: every procedure keeps PHASE at its points, and the rows that enter INITIAL_FILL and IDLE start at points whose
PHASE is FLUSHING and DRAINING. -/
theorem phaseFollowsTheSession : Obligations.PhaseFollowsTheSession := by
  intro s t h hs
  refine ⟨step_keeps_phaseInv h hs, fun ht => ?_, fun ht => ?_⟩ <;> by_cases hne : t.phase = s.phase
  · exact .inl (hne ▸ ht)
  · obtain ⟨_, _, e⟩ | ⟨e, _⟩ | ⟨-, at', hp, hq, -⟩ | ⟨e, _⟩ | ⟨e, _⟩ | ⟨e, _⟩ :=
      phaseChangesOnlyWithItsEvent s t hs hne
    case inr.inr.inl => exact .inr (hp.phase_fill (h _ hq))
    all_goals simp [ht] at e
  · exact .inl (hne ▸ ht)
  · obtain ⟨rest, hi, -⟩ | ⟨e, _⟩ | ⟨e, _⟩ | ⟨e, _⟩ | ⟨e, _⟩ | ⟨-, at', st, hp, hq, -⟩ :=
      phaseChangesOnlyWithItsEvent s t hs hne
    case inl => exact .inr (.inr ⟨rest, hi⟩)
    case inr.inr.inr.inr.inr => exact .inr (.inl (hp.phase_idle (h _ hq)))
    all_goals simp [ht] at e

end Sys2Proof.Machine
end

section
/-! SUPPORT. The session counters beside the point of SEQ (10_state.md R19): in a procedure over `len` bytes they fit their registers, so what a write adds to the one and takes from the other is exact. -/

namespace Sys2Proof.Machine

/-! ### Counting within the width -/

/-- A length that the counters of a build can hold. -/
def LenFits (b : Build) (len : Nat) : Prop := len < 2 ^ b.lenWidth ∧ b.lenWidth ≤ 32

theorem cutTo_toNat {width n : Nat} (h : n < 2 ^ width) (hw : width ≤ 32) : (cutTo width n).toNat = n := by
  have := Nat.pow_le_pow_right (n := 2) (by decide) hw
  rw [cutTo, BitVec.toNat_ofNat, Nat.mod_eq_of_lt h, Nat.mod_eq_of_lt (by omega)]

theorem openCount_remaining {s : State} {len : Nat} (h : LenFits s.build len) :
    (openCount len s).sessRemaining.toNat = len :=
  cutTo_toNat h.1 h.2

theorem countWritten_written {s : State} {len n : Nat} (h : LenFits s.build len) (hn : s.sessWritten.toNat + n ≤ len) :
    (countWritten n s).sessWritten.toNat = s.sessWritten.toNat + n :=
  cutTo_toNat (hn.trans_lt h.1) h.2

/-- The write of a chunk of `n` bytes moves `n` from the remaining count to the written one. -/
theorem countWritten_counts {s : State} {len n : Nat} (h : LenFits s.build len)
    (hlen : s.sessWritten.toNat + s.sessRemaining.toNat = len) (hn : n ≤ s.sessRemaining.toNat) :
    (countWritten n s).sessWritten.toNat = s.sessWritten.toNat + n ∧
      (countWritten n s).sessRemaining.toNat = s.sessRemaining.toNat - n := by
  have := h.1
  exact ⟨countWritten_written h (by omega), countWritten_remaining hn (by omega)⟩

/-! ### The procedures -/

/-- The source index a refill has reached. -/
def refillStart : RefillPoint → Nat
  | .enter off _ => off
  | .delay off _ => off
  | .poll off _ => off
  | .chunk off _ _ _ => off

theorem sessionInv_goto {q : Running} {s : State} :
    SessionInv (goto q s) ↔ runningOk s.sessWritten.toNat s.sessRemaining.toNat s.opLength q := by
  simp [SessionInv, State.opLength]

theorem sessionInv_of_waiting {s : State} (h : s.seq = none) : SessionInv s := by
  simp [SessionInv, h]

/-- The counters of a procedure that has written all of its `len` bytes, in a command with the operands of `s`. -/
def AllWritten (s : State) (len : Nat) (u : State) : Prop :=
  u.sessWritten.toNat = len ∧ u.sessRemaining.toNat = 0 ∧ u.opLength = s.opLength ∧ u.build = s.build

section
variable {s : State}

theorem refillStep_session {src : Src} {restart : Bool} {at' : RefillPoint → Running} {after : State → State}
    {p : RefillPoint} {len : Nat} (hfit : LenFits s.build len) (hs : SessionInv s)
    (hp : refillOk s.sessWritten.toNat s.sessRemaining.toNat len restart p)
    (hat : ∀ w r p', refillOk w r len restart p' → refillStart p ≤ refillStart p' → runningOk w r s.opLength (at' p'))
    (ha : ∀ u, AllWritten s len u → SessionInv (after u)) : SessionInv (refillStep src restart at' after p s) := by
  cases p with
  | enter off rem =>
    obtain ⟨hlen, hrem, hgo, hre⟩ := hp
    refine delayThen_rule (fun _ => hs) fun _ => sessionInv_goto.mpr ?_
    cases restart with
    | false => exact hat _ _ (.poll off rem) ⟨hlen, hrem, hgo rfl⟩ le_rfl
    | true =>
      obtain rfl : off = 0 := hre rfl
      obtain rfl : rem = len := by omega
      exact hat _ _ (.poll 0 rem) ⟨hlen, hrem, rfl, openCount_remaining hfit⟩ le_rfl
  | delay off rem => exact delayThen_rule (fun _ => hs) fun _ => sessionInv_goto.mpr (hat _ _ (.poll off rem) hp le_rfl)
  | poll off rem =>
    obtain ⟨hlen, hrem, hw, hr⟩ := hp
    refine sessionInv_goto.mpr (hat _ _ (.chunk off rem _ []) ⟨hlen, hrem, hw, hr, Nat.min_le_right _ _, ?_, by simp⟩ le_rfl)
    exact (Nat.min_le_left _ _).trans (Nat.le_of_lt_succ (BitVec.isLt _))
  | chunk off rem n buf =>
    obtain ⟨hlen, hrem, hw, hr, hn, hn15, hbuf⟩ := hp
    refine chunkStep_rule (fun a _ => sessionInv_of_waiting rfl) (fun base a v _ _ _ hlt => ?_) fun _ => ?_
    · exact sessionInv_goto.mpr (hat _ _ (.chunk off rem n (buf ++ [v]))
        ⟨hlen, hrem, hw, hr, hn, hn15, by simpa using hlt⟩ le_rfl)
    · obtain ⟨hw', hr'⟩ := countWritten_counts (s := emit (chunkEvent src s.build off n buf) s) (n := n) hfit
        (by simp only [emit_sessWritten, emit_sessRemaining]; omega) (by simp only [emit_sessRemaining]; omega)
      simp only [emit_sessWritten, emit_sessRemaining] at hw' hr'
      split
      · exact ha _ ⟨by omega, by omega, rfl, rfl⟩
      · exact sessionInv_goto.mpr (hat _ _ (.delay (off + n) (rem - n))
          ⟨by omega, by omega, by omega, by omega⟩ (Nat.le_add_right _ _))

theorem beginStep_session {src : Src} {at' : BeginPoint → Running} {after : State → State} {p : BeginPoint} {len : Nat}
    (hfit : LenFits s.build len) (hs : SessionInv s) (hp : beginOk s.sessWritten.toNat s.sessRemaining.toNat len p)
    (hat : ∀ w r p', beginOk w r len p' → runningOk w r s.opLength (at' p'))
    (ha : ∀ u, AllWritten s len u → SessionInv (after u)) : SessionInv (beginStep src len at' after p s) := by
  have hpoll : ∀ w r, w = 0 → r = len →
      runningOk w r s.opLength (at' (if isIdle s.nextStatus then .flush else .idleWait)) := by
    intro w r hw hr
    split
    · exact hat w r .flush ⟨hw, hr⟩
    · exact hat w r .idleWait ⟨hw, hr⟩
  cases p with
  | enter =>
    refine (sessionInv_goto (s := openCount len (setPhase .flushing (strobe s.build.strobeNop s)))).mpr ?_
    exact hpoll _ _ rfl (openCount_remaining (s := s) hfit)
  | idleWait => exact sessionInv_goto.mpr (hpoll _ _ hp.1 hp.2)
  | flush => exact sessionInv_goto.mpr (hat _ _ (.fill []) ⟨hp.1, hp.2, by simp⟩)
  | fill buf =>
    obtain ⟨hw, hr, hbuf⟩ := hp
    refine chunkStep_rule (fun a _ => sessionInv_of_waiting rfl) (fun base a v _ _ _ hlt => ?_) fun _ => ?_
    · rw [markFill_eq_setPhase]
      exact sessionInv_goto.mpr (hat _ _ (.fill (buf ++ [v])) ⟨hw, hr, by simpa using hlt⟩)
    · obtain ⟨hw', hr'⟩ := countWritten_counts
        (s := emit (chunkEvent src s.build 0 (min len Config.fifoCapacity) buf) s) (n := min len Config.fifoCapacity) hfit
        (by simp only [emit_sessWritten, emit_sessRemaining]; omega)
        (by simp only [emit_sessRemaining, hr]; exact Nat.min_le_left _ _)
      simp only [emit_sessWritten, emit_sessRemaining] at hw' hr'
      rw [markFill_eq_setPhase]
      exact sessionInv_goto.mpr (hat _ _ .start ⟨hw'.trans (by omega), hr'.trans (by omega)⟩)
  | start =>
    obtain ⟨hw, hr⟩ := hp
    rw [beginStep]
    split
    · exact ha _ ⟨by simpa using hw.trans (by omega), by simpa using hr.trans (by omega), rfl, rfl⟩
    · exact sessionInv_goto.mpr (hat _ _ .oscWait ⟨by omega, hw.trans (by omega), hr.trans (by omega)⟩)
  | oscWait =>
    obtain ⟨hlong, hw, hr⟩ := hp
    rw [beginStep]
    refine sessionInv_goto.mpr ?_
    split
    · exact hat _ _ (.refill (.enter _ _)) ⟨hlong, le_rfl, by omega, by omega, fun _ => ⟨hw, hr⟩, by simp⟩
    · exact hat _ _ .oscWait ⟨hlong, hw, hr⟩
  | refill p =>
    obtain ⟨hlong, hoff, hp⟩ := hp
    exact refillStep_session hfit hs hp (fun w r p' h hle => hat w r (.refill p') ⟨hlong, hoff.trans hle, h⟩) ha

theorem endStep_session {at' : EndPoint → Running} {after : State → State} {p : EndPoint}
    (hat : ∀ p', runningOk s.sessWritten.toNat s.sessRemaining.toNat s.opLength (at' p'))
    (ha : SessionInv (after (setPhase .idle (strobe s.build.strobeIdle s)))) : SessionInv (endStep at' after p s) := by
  cases p with
  | enter => exact sessionInv_goto.mpr (hat _)
  | drainWait => exact sessionInv_goto.mpr (hat _)
  | idle => exact ha

theorem frameStep_session {d : Byte} {at' : FramePoint → Running} {after : State → State} {p : FramePoint}
    (hfit : LenFits s.build burstLen) (hs : SessionInv s) (hp : frameOk s.sessWritten.toNat s.sessRemaining.toNat p)
    (hat : ∀ w r p', frameOk w r p' → runningOk w r s.opLength (at' p'))
    (ha : ∀ u, u.opLength = s.opLength → SessionInv (after u)) : SessionInv (frameStep d at' after p s) := by
  cases p with
  | first p =>
    refine beginStep_session hfit hs hp (fun w r p h => hat w r (.first p) h) fun u hu => sessionInv_goto.mpr ?_
    rw [hu.2.2.1]
    exact hat _ _ (.burst 1 (.enter 0 burstLen)) ⟨le_rfl, by decide, by decide, by decide, by simp, by simp⟩
  | burst k p =>
    obtain ⟨hk, hk', hp⟩ := hp
    refine refillStep_session hfit hs hp (fun w r p h _ => hat w r (.burst k p) ⟨hk, hk', h⟩)
      fun u hu => sessionInv_goto.mpr ?_
    rw [hu.2.2.1]
    split
    · next hlt =>
      exact hat _ _ (.burst (k + 1) (.enter 0 burstLen)) ⟨by omega, hlt, by decide, by decide, by simp, by simp⟩
    · exact hat _ _ (.last .enter) ⟨hu.1, hu.2.1⟩
  | last p => exact endStep_session (fun p' => hat _ _ (.last p') hp) (ha _ rfl)

theorem sessionInv_txGap {i : Nat} {u : State} (h : i < u.opLength) : SessionInv (txGap i u) := by
  unfold txGap
  split <;> exact sessionInv_goto.mpr h

theorem sessionInv_txNext (i : Nat) (u : State) : SessionInv (txNext i u) := by
  unfold txNext
  split
  · next h => exact sessionInv_goto.mpr h
  · exact sessionInv_of_waiting rfl

theorem sessionInv_txRead {i : Nat} (h : i < s.opLength) : SessionInv (txRead i s) :=
  memReadThen_rule (fun _ => sessionInv_of_waiting rfl) fun _ => sessionInv_goto.mpr ⟨h, trivial⟩

theorem txStep_session {p : TxPoint} (hfit : LenFits s.build burstLen) (hs : SessionInv s)
    (hp : runningOk s.sessWritten.toNat s.sessRemaining.toNat s.opLength (.tx p)) : SessionInv (txStep p s) := by
  cases p with
  | start =>
    simp only [txStep, txStart]
    split
    · exact sessionInv_goto.mpr trivial
    · split
      · next h => exact sessionInv_txRead h
      · exact sessionInv_of_waiting rfl
  | leadDelay r0 => exact delayThen_rule (fun _ => hs) fun _ => sessionInv_txNext 0 _
  | read i => exact sessionInv_txRead hp
  | frame i d p =>
    obtain ⟨hi, hp⟩ := hp
    exact frameStep_session hfit hs hp (fun _ _ _ h => ⟨hi, h⟩) fun u hu => sessionInv_txGap (hu ▸ hi)
  | gapDraw i => exact sessionInv_goto.mpr hp
  | gapDelay i ms => exact delayThen_rule (fun _ => hs) fun _ => sessionInv_txNext (i + 1) _

theorem contStep_session {src : Src} {at' : RefillPoint → Running} {p : RefillPoint} (hfit : LenFits s.build s.opLength)
    (hs : SessionInv s) (hp : contOk s.sessWritten.toNat s.sessRemaining.toNat s.opLength p)
    (hat : ∀ w r p', contOk w r s.opLength p' → runningOk w r s.opLength (at' p')) : SessionInv (contStep src at' p s) := by
  unfold contStep
  split
  · exact sessionInv_of_waiting rfl
  · next hne =>
    have hp' : refillOk s.sessWritten.toNat s.sessRemaining.toNat s.opLength true p := by
      obtain rfl | hp := hp
      · exact ⟨by omega, Nat.pos_of_ne_zero fun h => hne (by rw [h]), by simp, by simp⟩
      · exact hp
    exact refillStep_session hfit hs hp' (fun w r p' h _ => hat w r p' (.inr h)) fun _ _ => sessionInv_of_waiting rfl

/-- Every step of the running command keeps the counters in step with its point. -/
theorem microStep_session {q : Running} (hframe : LenFits s.build burstLen) (hlen : LenFits s.build s.opLength)
    (hs : SessionInv s) (hq : s.seq = some q) : SessionInv (microStep q s) := by
  have hp := hs q hq
  have hdone : ∀ u : State, SessionInv (complete u) := fun _ => sessionInv_of_waiting rfl
  cases q with
  | encode | frame | setPwr => exact hdone _
  | txByte p => exact frameStep_session hframe hs hp (fun _ _ _ h => h) fun u _ => hdone u
  | tx p => exact txStep_session hframe hs hp
  | rawTx p =>
    cases p with
    | stream p =>
      refine beginStep_session hlen hs hp (fun _ _ _ h => h) fun u hu => sessionInv_goto.mpr ?_
      obtain ⟨hw, hr, hl, -⟩ := hu
      exact ⟨hw.trans hl.symm, hr⟩
    | close p => exact endStep_session (fun _ => hp) (hdone _)
  | beginTx p => exact beginStep_session hlen hs hp (fun _ _ _ h => h) fun u _ => hdone u
  | cont p => exact contStep_session hlen hs hp fun _ _ _ h => h
  | contZ p => exact contStep_session hlen hs hp fun _ _ _ h => h
  | endTx p => exact endStep_session (fun _ => trivial) (hdone _)

end

/-! ### Every step -/

theorem firstPoint_ok (w r len : Nat) (i : Instr) : runningOk w r len (firstPoint len i) := by
  cases i <;> simp [firstPoint, runningOk, frameOk, beginOk, contOk]

theorem writeReg_sessionInv {s : State} (h : SessionInv s) (v : Word) (r : Reg) : SessionInv (writeReg v s r) := by
  cases r with
  | cmd =>
    obtain ⟨-, e⟩ | ⟨-, -, e⟩ | ⟨-, -, e⟩ | ⟨-, -, i, -, e⟩ := cmdWrite_cases v s <;> rw [writeReg, e]
    · exact h
    · exact h
    · exact h
    · intro q hq
      obtain rfl : firstPoint s.argLen.toNat i = q := Option.some.inj hq
      exact firstPoint_ok _ _ _ i
  | _ => exact h

theorem step_keeps_sessionInv {s t : State} (hi : Inv s) (hw : s.build.widthsOk = true) (h : SessionInv s)
    (hs : step s = .next t) : SessionInv t := by
  cases move_of_step hs with
  | run q hq =>
    obtain ⟨⟨h7, h32⟩, -⟩ : (7 ≤ s.build.lenWidth ∧ s.build.lenWidth ≤ 32) ∧ s.build.addrWidth ≤ 32 := by
      simpa [Build.widthsOk] using hw
    have hburst : burstLen < 2 ^ s.build.lenWidth := (by decide : burstLen < 2 ^ 7).trans_le (Nat.pow_le_pow_right (by decide) h7)
    exact microStep_session (s := taken s) ⟨hburst, h32⟩ ⟨hi.lLenFits, h32⟩ h hq
  | store v r => exact writeReg_sessionInv (s := taken s) h v r
  | reset => exact sessionInv_of_waiting rfl
  | _ => exact h

/-! ### The sum of the counters -/

theorem refillOk_sum {w r len : Nat} {restart : Bool} {p : RefillPoint} (h : refillOk w r len restart p)
    (hp : (∃ off rem, p = .enter off rem) → restart = false) : w + r = len := by
  cases p with
  | enter off rem =>
    obtain ⟨hlen, -, hgo, -⟩ := h
    have := hgo (hp ⟨_, _, rfl⟩)
    omega
  | delay off rem => obtain ⟨hlen, -, hw, hr⟩ := h; omega
  | poll off rem => obtain ⟨hlen, -, hw, hr⟩ := h; omega
  | chunk off rem n buf => obtain ⟨hlen, -, hw, hr, -⟩ := h; omega

theorem beginOk_sum {w r len : Nat} {p : BeginPoint} (h : beginOk w r len p) (hp : p ≠ .enter) : w + r = len := by
  cases p with
  | enter => exact absurd rfl hp
  | idleWait => obtain ⟨hw, hr⟩ := h; omega
  | flush => obtain ⟨hw, hr⟩ := h; omega
  | fill buf => obtain ⟨hw, hr, -⟩ := h; omega
  | start => obtain ⟨hw, hr⟩ := h; omega
  | oscWait => obtain ⟨hlong, hw, hr⟩ := h; omega
  | refill p => exact refillOk_sum h.2.2 fun _ => rfl

theorem contOk_sum {w r len : Nat} {p : RefillPoint} (h : contOk w r len p) (hp : ∀ n, p ≠ .enter 0 n) : w + r = len := by
  obtain rfl | h := h
  · exact absurd rfl (hp len)
  · refine refillOk_sum h ?_
    rintro ⟨off, rem, rfl⟩
    obtain ⟨-, -, -, hre⟩ := h
    exact absurd (by rw [hre rfl]) (hp rem)

/-- Settles O55: every procedure keeps the counters at its points, and at each point they say how far it has come. -/
theorem stepKeepsSessionCounters : Obligations.StepKeepsSessionCounters := by
  refine ⟨fun s t hi hw h hs => step_keeps_sessionInv hi hw h hs, ?_, ?_, ?_, ?_, ?_⟩
  · rintro s p h (hq | hq) hp
    · exact contOk_sum (h _ hq) hp
    · exact contOk_sum (h _ hq) hp
  · rintro s p h (hq | hq) hp
    · exact beginOk_sum (h _ hq) hp
    · exact beginOk_sum (h _ hq) hp
  · rintro s p i d h (hq | hq) hp
    · exact beginOk_sum (h _ hq) hp
    · exact beginOk_sum (h _ hq).2 hp
  · rintro s p i k d h (hq | hq) hp
    · exact refillOk_sum (h _ hq).2.2 fun ⟨o, r, e⟩ => absurd e (hp o r)
    · exact refillOk_sum (h _ hq).2.2.2 fun ⟨o, r, e⟩ => absurd e (hp o r)
  · refine fun s p i d h => ⟨fun hq => ?_, ?_⟩
    · obtain ⟨hw, hr⟩ := h _ hq
      rw [hw, hr]
      rfl
    · rintro (hq | hq)
      · obtain ⟨hw, hr⟩ := h _ hq
        rw [hw, hr]
        rfl
      · obtain ⟨-, hw, hr⟩ := h _ hq
        rw [hw, hr]
        rfl

end Sys2Proof.Machine
end

section
/-! SUPPORT. The command words and the steps that run them (30_encoding.md), the host's accesses to the register block and to its own memory (10_state.md, 20_memory.md), and the moves of an assembler line. -/

namespace Sys2Proof

/-! ### Illegal words (30_encoding.md R52) -/

/-- R52's list is exactly the words that are not legal. -/
theorem not_legalWord_iff {w : Word} : ¬ legalWord w = true ↔
    (cmdOp w = 0#4 ∨ 10 ≤ (cmdOp w).toNat) ∨ cmdReserved w ≠ 0#27 ∨ (cmdZf w = true ∧ cmdOp w ≠ 7#4) := by
  refine ⟨fun h => ?_, not_legalWord_of_illegal⟩
  by_contra hlist
  obtain ⟨⟨hop, hhi⟩, hres, hzf⟩ :
      (cmdOp w ≠ 0#4 ∧ (cmdOp w).toNat < 10) ∧ cmdReserved w = 0#27 ∧ (cmdZf w = true → cmdOp w = 7#4) := by
    simpa [not_or] using hlist
  have hlo : (cmdOp w).toNat ≠ 0 := fun h0 => hop (BitVec.eq_of_toNat_eq h0)
  refine h (legalWord_iff.mpr ⟨hres, ?_⟩)
  cases hz : cmdZf w with
  | false => exact .inl ⟨rfl, by omega, by omega⟩
  | true => exact .inr ⟨rfl, hzf hz⟩

theorem decodeWord_error_iff {w : Word} : (∃ r, decodeWord w = .error r) ↔ ¬ legalWord w = true := by
  rw [legalWord_iff_decodes]
  cases decodeWord w <;> simp

/-- Settles O2: a word decodes or is rejected, it decodes where it is legal, and R52 lists the others. -/
theorem legalWordsAreTheDecodedWords : Obligations.LegalWordsAreTheDecodedWords :=
  ⟨fun _ => legalWord_iff_decodes, fun _ => decodeWord_error_iff.trans not_legalWord_iff⟩

/-- Settles O3: the eight words are decoded. -/
theorem sampleCommandWordsDecode : Obligations.SampleCommandWordsDecode :=
  ⟨rfl, rfl, rfl, rfl, rfl, rfl, rfl, rfl⟩

end Sys2Proof

namespace Sys2Proof.Machine

/-! ### Running the command SEQ names (30_encoding.md R51, 10_state.md R20) -/

theorem runSequencer_of_seq {s : State} {q : Running} (h : s.seq = some q) : runSequencer s = exec q.command s := by
  rw [runSequencer, h]

/-- An accepted command is the one SEQ names, at its first point. -/
theorem runSequencer_accept (w : Word) (i : Instr) (s : State) : runSequencer (accept w i s) = exec i (accept w i s) := by
  rw [runSequencer_of_seq (q := firstPoint s.argLen.toNat i) rfl, firstPoint_command]

theorem withFetchWord_of_decoded {nbits w : Nat} {i : Instr} (h : decodeTableWord nbits w = some i) (s : State) :
    s.withFetchWord nbits w = accept (BitVec.ofNat 32 (w % 2 ^ nbits)) i { s with inputs := [] } := by
  rw [State.withFetchWord, placeWord, h]

/-- A pending store to the register block is that register's write. -/
theorem step_of_store {s : State} {off : Nat} {v : Word} {rest : List Input} (h : s.inputs = .store off 4 v :: rest) {r : Reg}
    (hr : regAt off = some r) : step s = .next (writeReg v { s with inputs := rest } r) := by
  rw [step_of_input h]
  exact hostStore_of_regAt hr v _

theorem step_of_legal_store {s : State} {w : Word} {i : Instr} {rest : List Input} (h : s.inputs = .store 0x00 4 w :: rest)
    (hf : s.fault = false) (hb : s.busy = false) (hw : decodeWord w = .ok i) :
    step s = .next (accept w i { s with inputs := rest }) := by
  rw [step_of_store h (r := .cmd) rfl, writeReg, cmdWrite_of_decoded (s := { s with inputs := rest }) hf hb hw]

/-- Settles O9: who moves is given by the pending moves, and SEQ names the command that moves. -/
theorem stepRunsTheDecodedCommand : Obligations.StepRunsTheDecodedCommand := by
  refine ⟨fun s nbits w i h => ?_, fun s q hq hi => ?_, fun s q rest hq hi => ?_, fun s w i rest hi hf hb hw => ?_⟩
  · rw [withFetchWord_of_decoded h, step_of_no_input rfl, runSequencer_accept]
  · rw [step_of_no_input hi, runSequencer_of_seq hq]
  · rw [step_of_input hi]
    exact runSequencer_of_seq hq
  · exact ⟨_, step_of_legal_store hi hf hb hw, rfl, congrArg some (firstPoint_command _ i)⟩

theorem exec_eq_fault_iff {i : Instr} {s : State} :
    exec i s = .fault .notSequenced ↔ ¬ ∃ q, s.seq = some q ∧ q.command = i := by
  constructor
  · rintro h ⟨q, hq, rfl⟩
    simp [exec_of_seq hq] at h
  · intro h
    cases he : exec i s with
    | next t =>
      obtain ⟨q, hq, hc, -⟩ := exec_next he
      exact absurd ⟨q, hq, hc⟩ h
    | fault r => rfl
    | refused r => exact absurd he (exec_ne_refused i s r)

theorem takeInput_ne_fault (s : State) (i : Input) (r : Fault) : takeInput s i ≠ .fault r := by
  cases i with
  | turn => simp [takeInput, runSequencer_eq]
  | store off width v => simp only [takeInput, hostStore]; split <;> [split; skip] <;> simp
  | load off width => simp only [takeInput, hostLoad]; split <;> [split; skip] <;> simp
  | memWrite a v => simp only [takeInput, hostMemWrite]; split <;> simp
  | _ => simp [takeInput]

/-- Settles O10: the sequencer's turn is exec of the command SEQ names, and no other move faults. -/
theorem stepNeverFaults : Obligations.StepNeverFaults := by
  refine ⟨fun s r h => ?_, fun i s => exec_eq_fault_iff⟩
  cases hi : s.inputs with
  | nil => simp [step_of_no_input hi, runSequencer_eq] at h
  | cons a rest => exact takeInput_ne_fault _ a r (step_of_input hi ▸ h)

/-- Settles O11: a waiting machine with no move pending takes an idle turn. -/
theorem resetLeavesLstxReadyAndWaiting : Obligations.ResetLeavesLstxReadyAndWaiting :=
  ⟨rfl, rfl, rfl, rfl, fun s hq hi => by rw [step_of_no_input hi, runSequencer_eq, hq]⟩

/-- Settles O18: the pass is `waitPass`, and the turn it puts in between is the running command's. -/
theorem waitPollsUntilNotBusy : Obligations.WaitPollsUntilNotBusy := by
  intro s rest hi
  refine ⟨waitPass { s with inputs := rest }, step_of_input hi, rfl, fun hb => by simp [waitPass, hb], fun hb => ?_⟩
  have hin : (waitPass { s with inputs := rest }).inputs = .turn :: .wait :: rest := by simp [waitPass, hb]
  refine ⟨hin, fun q hq => ?_⟩
  rw [step_of_input hin]
  exact runSequencer_of_seq hq

/-! ### Registers (10_state.md R14 to R19) -/

theorem cutTo_toNat_word (width : Nat) (v : Word) : (cutTo width v.toNat).toNat = v.toNat % 2 ^ width := by
  rw [cutTo, BitVec.toNat_ofNat, Nat.mod_eq_of_lt ((Nat.mod_le _ _).trans_lt v.isLt)]

theorem setWidth_setWidth_eq_and (v : Word) : (v.setWidth 8).setWidth 32 = v &&& 0xFF#32 := by
  apply BitVec.eq_of_toNat_eq
  have : v.toNat &&& 255 = v.toNat % 2 ^ 8 := Nat.and_two_pow_sub_one_eq_mod v.toNat 8
  simp [this]
  omega

/-- Settles O14: each store keeps the register's width of the word, and the load returns what is kept. -/
theorem argRegistersKeepUsedBits : Obligations.ArgRegistersKeepUsedBits := by
  intro s v
  exact ⟨⟨_, hostStore_argData v s, _, hostLoad_of_regAt (r := .argData) rfl _, setWidth_setWidth_eq_and v⟩,
    ⟨_, hostStore_argAddr v s, _, hostLoad_of_regAt (r := .argAddr) rfl _, cutTo_toNat_word _ v⟩,
    ⟨_, hostStore_argLen v s, _, hostLoad_of_regAt (r := .argLen) rfl _, cutTo_toNat_word _ v⟩⟩

/-- The low bits of a widened register are the register, and the bits above it are 0. -/
theorem extractLsb'_setWidth_low {n m : Nat} (x : BitVec n) (h : n ≤ m) : (x.setWidth m).extractLsb' 0 n = x := by
  ext k hk
  simp [BitVec.getElem_extractLsb', BitVec.getLsbD_setWidth, hk]
  omega

theorem extractLsb'_setWidth_high {n m k : Nat} (x : BitVec n) : (x.setWidth m).extractLsb' n k = 0#k := by
  ext j hj
  simp [BitVec.getElem_extractLsb', BitVec.getLsbD_setWidth, BitVec.getLsbD_of_ge]

/-- Settles O59: each offset names its register, and a load puts that register on the bus. -/
theorem hostLoadsReturnTheirRegister : Obligations.HostLoadsReturnTheirRegister := by
  intro s
  refine ⟨hostLoad_of_regAt (r := .cmd) rfl s, ⟨_, hostLoad_of_regAt (r := .argData) rfl s, ?_⟩,
    hostLoad_of_regAt (r := .argAddr) rfl s, hostLoad_of_regAt (r := .argLen) rfl s,
    ⟨_, hostLoad_of_regAt (r := .result) rfl s, ?_, ?_⟩, ⟨_, hostLoad_of_regAt (r := .power) rfl s, ?_, ?_⟩,
    hostLoad_of_regAt (r := .sessWritten) rfl s, hostLoad_of_regAt (r := .sessRemaining) rfl s,
    hostLoad_of_regAt (r := .faultAddr) rfl s⟩
  · exact BitVec.toNat_setWidth_of_le (by decide)
  · exact extractLsb'_setWidth_low _ (by decide)
  · exact extractLsb'_setWidth_high _
  · exact extractLsb'_setWidth_low _ (by decide)
  · exact extractLsb'_setWidth_high _

/-! ### Host memory (20_memory.md R29) -/

theorem Memory.read_of_lt_wfFrom {lo a : Nat} (h : a < lo) :
    ∀ {m : List Host.Cell}, Memory.wfFrom lo m = true → Memory.read m a = Memory.unlisted
  | [], _ => rfl
  | (b, u) :: cs, hm => by
    simp only [Memory.wfFrom, Bool.and_eq_true, decide_eq_true_eq] at hm
    rw [Memory.read, if_neg (by omega), Memory.read_of_lt_wfFrom (lo := b + 1) (by omega) hm.2]

/-- In canonical form a byte reads as it was written: an unlisted one is taken out of the list, and then no cell has its address. -/
theorem Memory.read_write_self (a : Nat) (v : Byte) :
    ∀ {lo : Nat} {m : List Host.Cell}, Memory.wfFrom lo m = true → Memory.read (Memory.write m a v) a = v
  | _, [], _ => by
    unfold Memory.write
    split <;> simp_all [Memory.read]
  | lo, (b, u) :: cs, hm => by
    simp only [Memory.wfFrom, Bool.and_eq_true, decide_eq_true_eq] at hm
    have hcs := hm.2
    unfold Memory.write
    split
    · next hlt =>
      split
      · next hv =>
        rw [Memory.read, if_neg (by omega), Memory.read_of_lt_wfFrom (by omega) hcs, hv]
      · simp [Memory.read]
    · split
      · split
        · next hv => rw [Memory.read_of_lt_wfFrom (by omega) hcs, hv]
        · simp [Memory.read]
      · next hne => rw [Memory.read, if_neg hne, Memory.read_write_self a v hcs]

/-- Settles O17: below 2^ADDR_WIDTH a host write is `Memory.write`, which keeps the canonical form and every other byte. -/
theorem hostMemoryWriteThenRead : Obligations.HostMemoryWriteThenRead := by
  refine fun s a v hwf => ⟨fun ha => ⟨Memory.write s.mem a v, if_pos ha, Memory.write_wf s.mem a v hwf, ?_, fun b hb => ?_⟩,
    fun ha => if_neg (Nat.not_lt_of_le ha)⟩
  · exact Memory.read_write_self a v hwf
  · exact Memory.read_write_of_ne hb v s.mem

/-! ### The moves of an assembler line (30_encoding.md R56) -/

/-- A line's last store makes its command run on what the ARG registers hold, with the WAIT still to come. -/
theorem runN_issue {s : State} {i : Instr} {rest : List Input} (h : s.inputs = issue i ++ rest) (hb : s.busy = false)
    (hf : s.fault = false) : runN 1 s = .next (accept (encodeWord i) i { s with inputs := .wait :: rest }) :=
  runN_succ (step_of_legal_store h hf hb (decodeWord_encodeWord i)) 0

/-- A line's store to a register comes before the rest of the line. -/
theorem runN_wr {s : State} {r : Reg} {v : Nat} {is : List Input} (h : s.inputs = wr r v :: is) (n : Nat) :
    runN (n + 1) s = runN n (writeReg (BitVec.ofNat 32 v) { s with inputs := is } r) :=
  runN_succ (step_of_store h (r := r) (by cases r <;> rfl)) n

theorem runN_data {s : State} {i : Instr} {d : Nat} {rest : List Input} (h : s.inputs = wr .argData d :: issue i ++ rest)
    (hb : s.busy = false) (hf : s.fault = false) :
    ∃ t, runN 2 s = .next t ∧ t.seq.map Running.command = some i ∧ t.lData = (BitVec.ofNat 32 d).setWidth 8 ∧
      t.inputs = .wait :: rest :=
  ⟨_, (runN_wr h 1).trans (runN_issue rfl hb hf), congrArg some (firstPoint_command _ i), rfl, rfl⟩

theorem runN_length {s : State} {i : Instr} {n : Nat} {rest : List Input} (hw : s.build.widthsOk = true)
    (hn : n < 2 ^ s.build.lenWidth) (h : s.inputs = wr .argLen n :: issue i ++ rest)
    (hb : s.busy = false) (hf : s.fault = false) :
    ∃ t, runN 2 s = .next t ∧ t.seq = some (firstPoint n i) ∧ t.lAddr = s.argAddr ∧ t.opLength = n ∧
      t.inputs = .wait :: rest := by
  obtain ⟨⟨-, h32⟩, -⟩ : (7 ≤ s.build.lenWidth ∧ s.build.lenWidth ≤ 32) ∧ s.build.addrWidth ≤ 32 := by
    simpa [Build.widthsOk] using hw
  have hlen : (s.lenCut (BitVec.ofNat 32 n).toNat).toNat = n := by
    rw [State.lenCut, cutTo_toNat_word, BitVec.toNat_ofNat, Nat.mod_mod_of_dvd _ (Nat.pow_dvd_pow 2 h32), Nat.mod_eq_of_lt hn]
  refine ⟨_, (runN_wr h 1).trans (runN_issue rfl hb hf), congrArg (fun l => some (firstPoint l i)) hlen, rfl, hlen, rfl⟩

theorem runN_buffer {s : State} {i : Instr} {a n : Nat} {rest : List Input} (hw : s.build.widthsOk = true)
    (ha : a < 2 ^ s.build.addrWidth) (hn : n < 2 ^ s.build.lenWidth)
    (h : s.inputs = wr .argAddr a :: wr .argLen n :: issue i ++ rest) (hb : s.busy = false) (hf : s.fault = false) :
    ∃ t, runN 3 s = .next t ∧ t.seq = some (firstPoint n i) ∧ t.opBase = a ∧ t.opLength = n ∧
      t.inputs = .wait :: rest := by
  obtain ⟨-, h32⟩ : (7 ≤ s.build.lenWidth ∧ s.build.lenWidth ≤ 32) ∧ s.build.addrWidth ≤ 32 := by
    simpa [Build.widthsOk] using hw
  have haddr : (s.addrCut (BitVec.ofNat 32 a).toNat).toNat = a := by
    rw [State.addrCut, cutTo_toNat_word, BitVec.toNat_ofNat, Nat.mod_mod_of_dvd _ (Nat.pow_dvd_pow 2 h32), Nat.mod_eq_of_lt ha]
  obtain ⟨t, ht, hq, hbase, hl, hin⟩ := runN_length (s := { s with
    argAddr := s.addrCut (BitVec.ofNat 32 a).toNat, inputs := wr .argLen n :: issue i ++ rest }) hw hn rfl hb hf
  exact ⟨t, (runN_wr h 2).trans ht, hq, by rw [State.opBase, hbase, haddr], hl, hin⟩

theorem setWidth_ofNat_toNat {d : Nat} (h : d < 256) : ((BitVec.ofNat 32 d).setWidth 8).toNat = d := by
  simp
  omega

theorem signExtend_dbm {dbm : Int} (hlo : -128 ≤ dbm) (hhi : dbm ≤ 127) :
    (((BitVec.ofNat 32 (dbm % 256).toNat).setWidth 8).signExtend 32).toInt = dbm := by
  rw [BitVec.toInt_signExtend_of_le (by decide), BitVec.toInt_eq_toNat_bmod, setWidth_ofNat_toNat (by omega)]
  rw [Int.bmod_def]
  omega

/-- Settles O19: every line is its stores and then the issue of its command, which latches them. -/
theorem asmLinesDeliverTheirOperands : Obligations.AsmLinesDeliverTheirOperands := by
  intro s rest hb hf
  refine ⟨fun d l i hl hd hin => ?_, fun dbm hlo hhi hin => ?_, fun a n l i hl hw ha hn hin => ?_,
    fun n hw hn hin => ?_, fun hin => ?_⟩
  · have hline : asmExpand l = wr .argData d :: issue i := by
      simp only [List.mem_cons, Prod.mk.injEq, List.not_mem_nil, or_false] at hl
      obtain ⟨rfl, rfl⟩ | ⟨rfl, rfl⟩ | ⟨rfl, rfl⟩ := hl <;> rfl
    obtain ⟨t, ht, hq, hdata, hwait⟩ := runN_data (hline ▸ hin) hb hf
    exact ⟨t, ht, hq, by rw [State.opData, hdata, setWidth_ofNat_toNat hd], hwait⟩
  · obtain ⟨t, ht, hq, hdata, hwait⟩ := runN_data hin hb hf
    exact ⟨t, ht, hq, by rw [State.opDbm, hdata, signExtend_dbm hlo hhi], hwait⟩
  · have hline : asmExpand l = wr .argAddr a :: wr .argLen n :: issue i := by
      simp only [List.mem_cons, Prod.mk.injEq, List.not_mem_nil, or_false] at hl
      obtain ⟨rfl, rfl⟩ | ⟨rfl, rfl⟩ | ⟨rfl, rfl⟩ | ⟨rfl, rfl⟩ := hl <;> rfl
    exact runN_buffer hw ha hn (hline ▸ hin) hb hf
  · obtain ⟨t, ht, hq, -, hlen, hwait⟩ := runN_length hw hn hin hb hf
    exact ⟨t, ht, hq, hlen, hwait⟩
  · exact ⟨_, runN_issue hin hb hf, rfl, rfl⟩

end Sys2Proof.Machine
end

section
/-! SUPPORT. The power lookup (43_pacer.md R92): in a table that rises strictly the first entry is the least, the last the greatest, and no two have one dBm value. -/

namespace Sys2Proof.Machine

theorem increasingFrom_iff {lo : Int} {es : List PowerEntry} :
    increasingFrom lo es = true ↔ List.IsChain (· < ·) (lo :: es.map PowerEntry.dbm) := by
  induction es generalizing lo with
  | nil => simp [increasingFrom]
  | cons e es ih => simp [increasingFrom, ih, List.isChain_cons_cons]

/-- The entries of a well-formed table rise strictly, each below every later one (10_state.md R23). -/
theorem entries_pairwise {t : PowerTable} (h : t.wf = true) : t.entries.Pairwise (fun e f => e.dbm < f.dbm) :=
  List.pairwise_map.mp (List.isChain_iff_pairwise.mp (increasingFrom_iff.mp h) : (t.entries.map PowerEntry.dbm).Pairwise (· < ·))

theorem entries_inj {t : PowerTable} (h : t.wf = true) {e f : PowerEntry} (he : e ∈ t.entries) (hf : f ∈ t.entries)
    (hd : e.dbm = f.dbm) : e = f :=
  List.inj_on_of_nodup_map (List.pairwise_map.mpr ((entries_pairwise h).imp fun hlt => hlt.ne)) he hf hd

theorem first_le_of_mem {t : PowerTable} (h : t.wf = true) {e : PowerEntry} (he : e ∈ t.entries) : t.first.dbm ≤ e.dbm := by
  obtain rfl | he := List.mem_cons.mp he
  · exact le_rfl
  · exact (List.rel_of_pairwise_cons (entries_pairwise h) he).le

theorem le_last_of_mem {t : PowerTable} (h : t.wf = true) {e l : PowerEntry} (he : e ∈ t.entries)
    (hl : t.entries.getLast? = some l) : e.dbm ≤ l.dbm := by
  obtain rfl : t.entries.getLast (List.ne_nil_of_mem he) = l :=
    Option.some.inj ((List.getLast?_eq_some_getLast (List.ne_nil_of_mem he)).symm.trans hl)
  have hle : t.entries.Pairwise (fun e f => e.dbm ≤ f.dbm) := (entries_pairwise h).imp fun hlt => hlt.le
  exact hle.rel_getLast_of_rel_getLast_getLast he le_rfl

theorem getLast?_entries (t : PowerTable) : t.entries.getLast? = some (lastEntry t) := List.getLast?_cons

theorem powerLookup_of_mem {t : PowerTable} (h : t.wf = true) (dflt : Byte) {e : PowerEntry} (he : e ∈ t.entries) :
    powerLookup t dflt e.dbm = e.cal := by
  cases hf : t.entries.find? (fun f => f.dbm == e.dbm) with
  | none => exact absurd (List.find?_eq_none.mp hf e he) (by simp)
  | some f =>
    obtain rfl : f = e := entries_inj h (List.mem_of_find?_eq_some hf) he (by simpa using List.find?_some hf)
    simp [powerLookup, hf]

theorem powerLookup_of_not_mem {t : PowerTable} (dflt : Byte) {dbm : Int} (h : ∀ e ∈ t.entries, e.dbm ≠ dbm) :
    powerLookup t dflt dbm =
      if dbm < t.first.dbm then t.first.cal else if (lastEntry t).dbm < dbm then (lastEntry t).cal else dflt := by
  rw [powerLookup, List.find?_eq_none.mpr (by simpa using h)]

/-- Settles O27: the lookup's cases, which exclude one another in a table that rises strictly. -/
theorem setPwrLooksUpCalibrationByte : Obligations.SetPwrLooksUpCalibrationByte := by
  intro s hq hwf
  have hdbm : s.opDbm = s.lData.toInt := BitVec.toInt_signExtend_of_le (by decide)
  refine ⟨s.powerByte, exec_of_seq hq, ?_⟩
  rw [State.powerByte, hdbm]
  refine ⟨fun e he hd => ?_, fun e he hlt => ?_, fun e he hlt => ?_, fun hgap hlow hhigh => ?_⟩
  · rw [← hd, powerLookup_of_mem hwf _ he]
  · obtain rfl : s.build.powerTable.first = e := Option.some.inj he
    rw [powerLookup_of_not_mem _ fun f hf => (hlt.trans_le (first_le_of_mem hwf hf)).ne', if_pos hlt]
  · obtain rfl : lastEntry s.build.powerTable = e := Option.some.inj ((getLast?_entries _).symm.trans he)
    have hfirst := le_last_of_mem hwf (List.mem_cons_self : s.build.powerTable.first ∈ _) he
    rw [powerLookup_of_not_mem _ fun f hf => ((le_last_of_mem hwf hf he).trans_lt hlt).ne, if_neg (by omega), if_pos hlt]
  · obtain ⟨e, he, hlow⟩ := hlow
    obtain ⟨f, hf, hhigh⟩ := hhigh
    have hfirst := first_le_of_mem hwf he
    have hlast := le_last_of_mem hwf hf (getLast?_entries _)
    rw [powerLookup_of_not_mem _ hgap, if_neg (by omega), if_neg (by omega)]

end Sys2Proof.Machine
end

section
/-! SUPPORT. Single steps of the stream and pacer commands, written out: the steps that complete a command (30_encoding.md R53), the chunks of a refill (42_fifo_stream.md R75, R76), the pacing of TX (43_pacer.md R90), and a begin past its first 64 bytes (R77). -/

namespace Sys2Proof.Machine

/-! ### The chunks of a refill -/

/-- Only the first point of a CONT or CONTZ of length 0 takes no step of refill. -/
theorem RefillPlace.ne_zeroLength {restart : Bool} {at' : RefillPoint → Running} (h : RefillPlace restart at') {p : RefillPoint}
    (hp : p ≠ .enter 0 0) : at' p ≠ .cont (.enter 0 0) ∧ at' p ≠ .contZ (.enter 0 0) := by
  cases h with
  | ofBegin h => cases h <;> simp
  | _ => simp [hp]

/-- `RefillPlace.microStep_eq` at every other point. -/
theorem RefillPlace.microStep_of_ne {restart : Bool} {at' : RefillPoint → Running} (h : RefillPlace restart at') (s : State) :
    ∃ src after, (∀ p, (at' p).command = .contZ ↔ src = .zero) ∧
      ∀ p, p ≠ .enter 0 0 → microStep (at' p) s = refillStep src restart at' after p s := by
  obtain ⟨src, after, -, hz, e⟩ := h.microStep_eq s
  exact ⟨src, after, hz, fun p hp => e p (h.ne_zeroLength hp).1 (h.ne_zeroLength hp).2⟩

/-- What follows a refill, where it is one move of SEQ. -/
theorem complete_eq (u : State) : complete u = { u with busy := u.busy && (none : Option Running).isSome, seq := none } := by
  simp [complete]

theorem goto_eq (q : Running) (u : State) : goto q u = { u with busy := u.busy && (some q).isSome, seq := some q } := by
  simp [goto]

/-- In a place of refill, the step after a chunk's last byte is its write event. -/
theorem writesChunk_of_refill {s : State} {at' : RefillPoint → Running} {restart : Bool} (src : Src) {off rem n : Nat}
    {buf : List Byte} {next : Option Running} (after : State → State)
    (hm : microStep (at' (.chunk off rem n buf)) s = refillStep src restart at' after (.chunk off rem n buf) s)
    (hread : ∀ base, src = .mem base → n ≤ buf.length)
    (hl : (eventBytes (chunkEvent src s.build off n buf)).length = n)
    (ha : ∀ u, after u = { u with busy := u.busy && next.isSome, seq := next }) :
    WritesChunk s at' off rem n buf (chunkEvent src s.build off n buf) next :=
  writesChunk_of_microStep after hl (fun _ => by rw [hm, refillStep, chunkStep_write src _ _ s hread]) ha

/-- The write event of a refill's last chunk completes the command that nothing follows. -/
theorem WritesChunk.completes {s : State} {at' : RefillPoint → Running} {off n : Nat} {buf : List Byte} {e : Event}
    (h : WritesChunk s at' off n n buf e none) (hq : s.seq = some (at' (.chunk off n n buf))) :
    ∃ w r : Word, exec (at' (.chunk off n n buf)).command s = .next { s with
      trace := s.trace ++ [e], sessWritten := w, sessRemaining := r, busy := false, seq := none } ∧
      w.toNat = (s.sessWritten.toNat + n) % 2 ^ s.build.lenWidth % 2 ^ 32 ∧
      (n ≤ s.sessRemaining.toNat → s.sessRemaining.toNat < 2 ^ s.build.lenWidth → r.toNat = s.sessRemaining.toNat - n) := by
  simpa using (h hq le_rfl).2

theorem contStep_chunk (src : Src) (at' : RefillPoint → Running) (off rem n : Nat) (buf : List Byte) (s : State) :
    contStep src at' (.chunk off rem n buf) s = refillStep src true at' complete (.chunk off rem n buf) s :=
  if_neg (by simp)

section
variable (s : State) (off rem n : Nat) {buf : List Byte}

theorem cont_writesChunk (hb : buf.length = n) : WritesChunk s .cont off rem n buf (.writeBuf buf) none :=
  writesChunk_of_refill (.mem s.opBase) complete (contStep_chunk _ _ _ _ _ _ _) (fun _ _ => hb.ge) hb complete_eq

theorem contZ_writesChunk : WritesChunk s .contZ off rem n buf (.writeZeros n) none :=
  writesChunk_of_refill .zero complete (contStep_chunk _ _ _ _ _ _ _) (by simp) (by simp [chunkEvent, eventBytes]) complete_eq

theorem begin_writesChunk (hb : buf.length = n) :
    WritesChunk s (fun p => .beginTx (.refill p)) off rem n buf (.writeBuf buf) none :=
  writesChunk_of_refill (restart := false) (.mem s.opBase) complete rfl (fun _ _ => hb.ge) hb complete_eq

theorem rawTx_writesChunk (hb : buf.length = n) :
    WritesChunk s (fun p => .rawTx (.stream (.refill p))) off rem n buf (.writeBuf buf) (some (.rawTx (.close .enter))) :=
  writesChunk_of_refill (restart := false) (.mem s.opBase) (goto _) rfl (fun _ _ => hb.ge) hb (goto_eq _)

end

/-- The bytes of a burst that a refill writes, by the frame bit of the burst. -/
theorem romSlice_burstPrn (b : Build) (d : Byte) (k off n : Nat) : romSlice b (burstPrn d k) off n =
    ((if (frame d).getD k false then b.prnOne.toList else b.prnZero.toList).drop off).take n := by
  rw [← burst_eq_ite]
  rfl

theorem length_romSlice {b : Build} {t : Prn} {off n : Nat} (h : off + n ≤ 64) : (romSlice b t off n).length = n := by
  simp [romSlice, length_prnBytes]
  omega

theorem burst_writesChunk {s : State} {at' : RefillPoint → Running} {restart : Bool} (d : Byte) (k : Nat) {off rem n : Nat}
    {buf : List Byte} (q : Running) (h : off + n ≤ 64)
    (hm : microStep (at' (.chunk off rem n buf)) s =
      refillStep (.rom (burstPrn d k)) restart at' (goto q) (.chunk off rem n buf) s) :
    WritesChunk s at' off rem n buf
      (.writeBuf (((if (frame d).getD k false then s.build.prnOne.toList else s.build.prnZero.toList).drop off).take n))
      (some q) := by
  rw [← romSlice_burstPrn]
  exact writesChunk_of_refill (.rom (burstPrn d k)) (goto q) hm (by simp) (length_romSlice h) (goto_eq q)

/-- A byte of a chunk in host memory, where its read is admitted. -/
theorem refillStep_read {s : State} (base : Nat) (restart : Bool) (at' : RefillPoint → Running) (after : State → State)
    {off rem n : Nat} {buf : List Byte} (hlt : buf.length < n) (ha : admits s.build (base + off + buf.length) = true) :
    refillStep (.mem base) restart at' after (.chunk off rem n buf) s = { s with
      trace := s.trace ++ [.memRead (base + off + buf.length) (Memory.read s.mem (base + off + buf.length))],
      seq := some (at' (.chunk off rem n (buf ++ [Memory.read s.mem (base + off + buf.length)]))) } := by
  rw [refillStep, chunkStep_read base _ _ s hlt, memReadThen, if_pos ha]
  rfl

/-- Settles O46: the poll's chunk, and the chunk's reads and write event in each place of refill. -/
theorem refillChunkIsWhatThePollReported : Obligations.RefillChunkIsWhatThePollReported := by
  refine ⟨fun s restart at' off rem hp hq => ?_, fun s at' next off rem n buf hat => ?_,
    fun s off rem n buf => contZ_writesChunk s off rem n, fun s off rem n i k d buf h => ?_⟩
  · obtain ⟨src, after, -, e⟩ := hp.microStep_of_ne s
    refine ⟨_, min (freeSlots s.nextStatus) rem, (exec_of_seq hq).trans (congrArg _ (e _ (by simp))), rfl, rfl, ?_, rfl, rfl,
      rfl, rfl, rfl⟩
    exact (Nat.min_le_left _ _).trans (Nat.le_of_lt_succ (BitVec.isLt _))
  · have hread : ∀ {restart after}, (∀ p, p = RefillPoint.chunk off rem n buf →
        microStep (at' p) s = refillStep (.mem s.opBase) restart at' after p s) → buf.length < n →
        s.seq = some (at' (.chunk off rem n buf)) → admits s.build (s.lAddr.toNat + off + buf.length) = true → _ :=
      fun hm hlt hq ha => (exec_of_seq hq).trans (congrArg Host.Outcome.next ((hm _ rfl).trans (refillStep_read _ _ _ _ hlt ha)))
    simp only [List.mem_cons, Prod.mk.injEq, List.not_mem_nil, or_false] at hat
    obtain ⟨rfl, rfl⟩ | ⟨rfl, rfl⟩ | ⟨rfl, rfl⟩ := hat
    · exact ⟨hread (fun p hp => hp ▸ contStep_chunk _ _ _ _ _ _ _), cont_writesChunk s off rem n⟩
    · exact ⟨hread (restart := false) (fun _ _ => rfl), begin_writesChunk s off rem n⟩
    · exact ⟨hread (restart := false) (fun _ _ => rfl), rawTx_writesChunk s off rem n⟩
  · exact ⟨burst_writesChunk (restart := true) _ k _ h rfl, burst_writesChunk (restart := true) d k _ h rfl,
      burst_writesChunk (restart := false) _ 0 _ h rfl, burst_writesChunk (restart := false) d 0 _ h rfl⟩

/-! ### The steps that complete a command -/

/-- Settles O28: the START_TX strobe of a short begin, and the write event of a refill's last chunk. -/
theorem beginCompletesWithItsLastEvent : Obligations.BeginCompletesWithItsLastEvent :=
  ⟨fun _ hq hlen => (exec_of_seq hq).trans (congrArg Host.Outcome.next (congrFun (if_pos hlen) _)),
    fun s off n _ hq hb => (begin_writesChunk s off n n hb).completes hq⟩

/-- Settles O29: the write event of a refill's last chunk, and the one silent step of a zero length. -/
theorem contCompletesWithItsLastWrite : Obligations.ContCompletesWithItsLastWrite :=
  ⟨fun s off n _ hq hb => (cont_writesChunk s off n n hb).completes hq, fun s hq => by
    simpa [microStep, contStep, complete, openCount, State.lenCut, cutTo, firstPoint, Running.command] using exec_of_seq hq⟩

/-- Settles O30: as for CONT, the chunk being of zeros. -/
theorem contZCompletesWithItsLastWrite : Obligations.ContZCompletesWithItsLastWrite :=
  ⟨fun s off n _ hq => (contZ_writesChunk s off n n).completes hq, fun s hq => by
    simpa [microStep, contStep, complete, openCount, State.lenCut, cutTo, firstPoint, Running.command] using exec_of_seq hq⟩

/-- Settles O31: in the three commands the IDLE strobe of their end is followed by their completion. -/
theorem endTxByteRawTxCompleteWithIdleStrobe : Obligations.EndTxByteRawTxCompleteWithIdleStrobe := by
  rintro i s (⟨rfl, hq⟩ | ⟨rfl, hq⟩ | ⟨rfl, hq⟩) <;> exact exec_of_seq hq

theorem delayThen_of_returns {s : State} (hd : s.delayReturns = true) (ms : Nat) (after : State → State) :
    delayThen ms after s = after (emit (.delay ms) s) :=
  if_pos hd

theorem txNext_of_lt {i : Nat} {u : State} (h : i < u.opLength) : txNext i u = goto (.tx (.read i)) u := if_pos h

theorem txNext_of_le {i : Nat} {u : State} (h : u.opLength ≤ i) : txNext i u = complete u := if_neg (Nat.not_lt_of_le h)

/-- A Delay of TX that returns is followed by what comes before byte `i`. -/
theorem exec_txDelay {s : State} {p : TxPoint} {ms i : Nat} (hq : s.seq = some (.tx p)) (hd : s.delayReturns = true)
    (hp : txStep p s = delayThen ms (txNext i) s) : exec .tx s = .next (txNext i (emit (.delay ms) s)) := by
  have h : microStep (.tx p) s = txNext i (emit (.delay ms) s) := hp.trans (delayThen_of_returns hd ms (txNext i))
  exact (exec_of_seq hq).trans (congrArg Host.Outcome.next h)

/-- Settles O32: after the last byte's Delay, and where there is no byte, TX is complete. -/
theorem txCompletesWithItsLastDelay : Obligations.TxCompletesWithItsLastDelay := by
  refine ⟨fun s i ms hq hl hd => ?_, fun s r0 hq hl hd => ?_, fun s hq hl hm => ?_⟩
  · rw [exec_txDelay hq hd rfl]
    exact congrArg Host.Outcome.next (txNext_of_le (u := emit (.delay ms) s) hl)
  · rw [exec_txDelay hq hd rfl]
    exact congrArg Host.Outcome.next (txNext_of_le (u := emit (.delay r0) s) hl.le)
  · have hstart : txStep .start s = complete s := by simp [txStep, txStart, hm, State.opLength, hl]
    exact (exec_of_seq hq).trans (congrArg Host.Outcome.next hstart)

/-! ### The pacing of TX -/

/-- Settles O42: the draws and Delays of TX by its points. -/
theorem txPacesItsFrames : Obligations.TxPacesItsFrames := by
  refine ⟨fun s hq hm => ?_, fun s r0 hq hl hd => ?_, fun s i d hq => ?_, fun s i hq => ?_, fun s i ms hq hl hd => ?_⟩
  · have hstart : microStep (.tx .start) s = goto (.tx (.leadDelay (s.nextRandom 0 2000))) (randomEvent 0 2000 s) := by
      simp [microStep, txStep, txStart, hm, Config.prodInitialLo, Config.prodInitialHi]
    exact ⟨_, _, (exec_of_seq hq).trans (congrArg _ hstart), (nextRandom_mem_range s (by decide)).2, rfl, rfl, rfl⟩
  · rw [exec_txDelay hq hd rfl]
    exact congrArg Host.Outcome.next (txNext_of_lt (u := emit (.delay r0) s) hl)
  · refine ⟨_, exec_of_seq hq, ?_⟩
    have hgap : microStep (.tx (.frame i d (.last .idle))) s = txGap i (setPhase .idle (strobe s.build.strobeIdle s)) := rfl
    rw [hgap]
    cases hm : s.build.paceMode <;> simp [txGap, hm, Config.detDelayMs]
  · obtain ⟨hlo, hhi⟩ := nextRandom_mem_range s (show 8000 < 12000 by decide)
    exact ⟨_, _, exec_of_seq hq, hlo, hhi, rfl, rfl⟩
  · rw [exec_txDelay hq hd rfl]
    exact congrArg Host.Outcome.next (txNext_of_lt (u := emit (.delay ms) s) hl)

end Sys2Proof.Machine
end

section
/-! SUPPORT. A begin past its first 64 bytes (42_fifo_stream.md R77), and the Delays of LSTX (70_reset_and_hazards.md R116): where the sequencer stands before one its step is that Delay, and elsewhere its step does not depend on whether delays return. -/

namespace Sys2Proof.Machine

/-! ### A long begin -/

theorem min_fifoCapacity_of_lt {len : Nat} (h : 64 < len) : min len Config.fifoCapacity = 64 := Nat.min_eq_right h.le

theorem countWritten_written_mod (n : Nat) (s : State) :
    (countWritten n s).sessWritten.toNat = (s.sessWritten.toNat + n) % 2 ^ s.build.lenWidth % 2 ^ 32 :=
  BitVec.toNat_ofNat _ _

section
variable {s : State} {base len : Nat} (at' : BeginPoint → Running) (after : State → State)

theorem beginStep_fill_read (hlen : 64 < len) {buf : List Byte} (hlt : buf.length < 64)
    (ha : admits s.build (base + buf.length) = true) :
    beginStep (.mem base) len at' after (.fill buf) s = { s with
      trace := s.trace ++ [.memRead (base + buf.length) (Memory.read s.mem (base + buf.length))],
      phase := if buf = [] then .initialFill else s.phase,
      seq := some (at' (.fill (buf ++ [Memory.read s.mem (base + buf.length)]))) } := by
  rw [beginStep, min_fifoCapacity_of_lt hlen, chunkStep_read base _ _ s hlt, Nat.add_zero, memReadThen, if_pos ha]
  simp [markFill_eq_setPhase, goto, setPhase, emit]

theorem beginStep_fill_write (hlen : 64 < len) {buf : List Byte} (hb : buf.length = 64) :
    beginStep (.mem base) len at' after (.fill buf) s = goto (at' .start) (countWritten 64 (emit (.writeBuf buf) s)) := by
  have hne : markFill buf = id := by
    cases buf with
    | nil => simp at hb
    | cons => rfl
  rw [beginStep, min_fifoCapacity_of_lt hlen, chunkStep_write _ _ _ s fun _ _ => hb.ge, hne]
  rfl

theorem beginStep_start_long (src : Src) (hlen : 64 < len) :
    beginStep src len at' after .start s = goto (at' .oscWait) (strobe s.build.strobeStart s) :=
  congrFun (if_neg (Nat.not_le_of_lt hlen)) _

end

/-- Settles O34: BEGIN and RAWTX run begin from host memory, whose steps past 64 bytes are the general ones. -/
theorem longBeginWaitsForOscillatorThenRefills : Obligations.LongBeginWaitsForOscillatorThenRefills := by
  intro s at' hat hlen
  have hm : ∃ after, ∀ p, s.seq = some (at' p) →
      exec (at' p).command s = .next (beginStep (.mem s.lAddr.toNat) s.lLen.toNat at' after p s) := by
    obtain rfl | rfl := hat
    · exact ⟨complete, fun p hq => exec_of_seq hq⟩
    · exact ⟨goto _, fun p hq => exec_of_seq hq⟩
  have hcmd : ∀ p, (at' .oscWait).command = (at' p).command := by
    obtain rfl | rfl := hat <;> exact fun _ => rfl
  obtain ⟨after, hexec⟩ := hm
  refine ⟨fun buf hq hlt ha => ?_, fun buf hq hb => ?_, fun hq => ?_, fun hq => ?_, fun hq hd => ?_⟩
  · rw [hexec _ hq, beginStep_fill_read at' after hlen hlt ha]
  · refine ⟨_, (countWritten 64 (emit (.writeBuf buf) s)).sessRemaining, ?_,
      countWritten_written_mod 64 (emit (.writeBuf buf) s), countWritten_remaining⟩
    rw [hexec _ hq, beginStep_fill_write at' after hlen hb]
    rfl
  · rw [hexec _ hq, beginStep_start_long at' after _ hlen]
    rfl
  · refine ⟨_, hexec _ hq, rfl, rfl, rfl, fun hst => ?_, fun hst => ?_⟩
    · have hstable : oscStable s.build.oscMask s.nextStatus = true := by simpa [oscStable] using hst
      simp [beginStep, hstable, Config.fifoCapacity]
    · have hstable : oscStable s.build.oscMask s.nextStatus = false := by simpa [oscStable] using hst
      simp [beginStep, hstable]
  · rw [hcmd, hexec _ hq, beginStep, refillStep, delayThen_of_returns hd]
    rfl

/-! ### Where the sequencer stands before a Delay -/

/-- The step from `s` to `t` is the Delay of `ms`. -/
def DelaysFor (ms : Nat) (s t : State) : Prop := ∃ after, Silent after ∧ t = delayThen ms after s

section
variable {s : State} {ms : Nat}

theorem refillStep_delaysFor {p : RefillPoint} (h : refillDelay s.build p = some ms) (src : Src) (restart : Bool)
    (at' : RefillPoint → Running) (after : State → State) : DelaysFor ms s (refillStep src restart at' after p s) := by
  cases p with
  | enter off rem => exact Option.some.inj h ▸ ⟨_, fun u => .goto _ (silent_refillOpen restart rem u), rfl⟩
  | delay off rem => exact Option.some.inj h ▸ ⟨_, silent_goto _, rfl⟩
  | _ => cases h

theorem beginStep_delaysFor {p : BeginPoint} (h : beginDelay s.build p = some ms) (src : Src) (len : Nat)
    (at' : BeginPoint → Running) (after : State → State) : DelaysFor ms s (beginStep src len at' after p s) := by
  cases p with
  | refill p => exact refillStep_delaysFor h src false (fun q => at' (.refill q)) after
  | _ => cases h

theorem frameStep_delaysFor {p : FramePoint} (h : frameDelay s.build p = some ms) (d : Byte) (at' : FramePoint → Running)
    (after : State → State) : DelaysFor ms s (frameStep d at' after p s) := by
  cases p with
  | first p => exact beginStep_delaysFor h _ _ _ _
  | burst k p => exact refillStep_delaysFor h (.rom _) true (fun q => at' (.burst k q)) _
  | last p => cases h

theorem contStep_delaysFor {p : RefillPoint} (h : contDelay s.build p = some ms) (src : Src) (at' : RefillPoint → Running) :
    DelaysFor ms s (contStep src at' p s) := by
  unfold contDelay at h
  split at h
  · cases h
  · next hne =>
    rw [contStep, if_neg hne]
    exact refillStep_delaysFor h _ _ _ _

/-- Where SEQ stands before a Delay, the micro step is that Delay. -/
theorem microStep_delaysFor {q : Running} (h : pendingDelay s.build q = some ms) : DelaysFor ms s (microStep q s) := by
  cases q with
  | txByte p => exact frameStep_delaysFor h _ _ _
  | tx p =>
    cases p with
    | leadDelay r0 => exact Option.some.inj h ▸ ⟨_, silent_txNext _, rfl⟩
    | frame i d p => exact frameStep_delaysFor h d (fun q => .tx (.frame i d q)) (txGap i)
    | gapDelay i ms => exact Option.some.inj h ▸ ⟨_, silent_txNext _, rfl⟩
    | _ => cases h
  | rawTx p =>
    cases p with
    | stream p => exact beginStep_delaysFor h _ _ _ _
    | close p => cases h
  | beginTx p => exact beginStep_delaysFor h _ _ _ _
  | cont p => exact contStep_delaysFor h _ _
  | contZ p => exact contStep_delaysFor h _ _
  | _ => cases h

/-- The Delay hangs where delays do not return. -/
theorem microStep_of_delayOutstanding {q : Running} (hq : s.seq = some q) (h : delayOutstanding s = true) :
    microStep q s = s := by
  obtain ⟨⟨ms, hms⟩, hd⟩ : (∃ ms, pendingDelay s.build q = some ms) ∧ s.delayReturns = false := by
    simpa [delayOutstanding, hq, Option.isSome_iff_exists] using h
  obtain ⟨after, -, e⟩ := microStep_delaysFor hms
  rw [e, delayThen]
  simp [hd]

end

/-! ### Where it does not -/

/-- An operation on which it has no bearing whether delays return. -/
abbrev IgnoresTimer (f : State → State) : Prop := ∀ r, Function.Commute (setTimer r) f

theorem ignoresTimer_goto (q : Running) : IgnoresTimer (goto q) := fun _ _ => rfl
theorem ignoresTimer_complete : IgnoresTimer complete := fun _ _ => rfl

theorem IgnoresTimer.ite {c : Prop} [Decidable c] {f g : State → State} (hf : IgnoresTimer f) (hg : IgnoresTimer g) :
    IgnoresTimer (if c then f else g) := by
  split
  · exact hf
  · exact hg

theorem ignoresTimer_markFill (buf : List Byte) : IgnoresTimer (markFill buf) := fun _ _ => apply_ite _ _ _ _

theorem ignoresTimer_txGap (i : Nat) : IgnoresTimer (txGap i) := by
  intro r s
  cases hm : s.build.paceMode <;> simp [txGap, setTimer, hm, goto]

theorem ignoresTimer_memReadThen (a : Nat) {after : Byte → State → State} (h : ∀ v, IgnoresTimer (after v)) :
    IgnoresTimer (memReadThen a after) :=
  fun r s => (apply_ite (setTimer r) _ _ _).trans (if_congr Iff.rfl (h _ r (emit (.memRead a (Memory.read s.mem a)) s)) rfl)

theorem ignoresTimer_chunkStep (src : Src) (off n : Nat) (buf : List Byte) {onRead : List Byte → State → State}
    {onWrite : State → State} (hr : ∀ b, IgnoresTimer (onRead b)) (hw : IgnoresTimer onWrite) :
    IgnoresTimer (chunkStep src off n buf onRead onWrite) := by
  intro r s
  cases src with
  | zero => exact hw r (writeZeros n s)
  | rom t => exact hw r (writeBuf n (romSlice s.build t off n) s)
  | mem base =>
    exact (apply_ite (setTimer r) _ _ _).trans
      (if_congr Iff.rfl (ignoresTimer_memReadThen _ (fun v => hr (buf ++ [v])) r s) (hw r (writeBuf n buf s)))

section
variable {b : Build}

theorem ignoresTimer_refillStep {p : RefillPoint} (h : refillDelay b p = none) (src : Src) (restart : Bool)
    (at' : RefillPoint → Running) {after : State → State} (ha : IgnoresTimer after) :
    IgnoresTimer (refillStep src restart at' after p) := by
  cases p with
  | poll off rem => exact fun _ _ => rfl
  | chunk off rem n buf =>
    exact ignoresTimer_chunkStep src off n buf (fun _ => ignoresTimer_goto _) (.ite ha (ignoresTimer_goto _))
  | _ => cases h

theorem ignoresTimer_beginStep {p : BeginPoint} (h : beginDelay b p = none) (src : Src) (len : Nat)
    (at' : BeginPoint → Running) {after : State → State} (ha : IgnoresTimer after) :
    IgnoresTimer (beginStep src len at' after p) := by
  cases p with
  | fill buf =>
    exact ignoresTimer_chunkStep src 0 _ buf (fun _ r => (ignoresTimer_goto _ r).comp_right (ignoresTimer_markFill buf r))
      fun r => (ignoresTimer_goto _ r).comp_right (ignoresTimer_markFill buf r)
  | start => exact fun r s => IgnoresTimer.ite ha (ignoresTimer_goto _) r (strobe s.build.strobeStart s)
  | refill p => exact ignoresTimer_refillStep h src false _ ha
  | _ => exact fun _ _ => rfl

theorem ignoresTimer_endStep (p : EndPoint) (at' : EndPoint → Running) {after : State → State} (ha : IgnoresTimer after) :
    IgnoresTimer (endStep at' after p) := by
  cases p with
  | idle => exact fun r s => ha r (setPhase .idle (strobe s.build.strobeIdle s))
  | _ => exact fun _ _ => rfl

theorem ignoresTimer_frameStep {p : FramePoint} (h : frameDelay b p = none) (d : Byte) (at' : FramePoint → Running)
    {after : State → State} (ha : IgnoresTimer after) : IgnoresTimer (frameStep d at' after p) := by
  cases p with
  | first p => exact ignoresTimer_beginStep h _ _ _ (ignoresTimer_goto _)
  | burst k p => exact ignoresTimer_refillStep h _ _ _ (ignoresTimer_goto _)
  | last p => exact ignoresTimer_endStep p _ ha

theorem ignoresTimer_txRead (i : Nat) : IgnoresTimer (txRead i) :=
  fun r s => ignoresTimer_memReadThen (s.opBase + i) (fun _ => ignoresTimer_goto _) r s

theorem ignoresTimer_txStart : IgnoresTimer txStart := by
  intro r s
  cases hm : s.build.paceMode with
  | production => simp only [txStart, setTimer_build, hm]; rfl
  | deterministic =>
    simp only [txStart, setTimer_build, hm]
    exact (apply_ite (setTimer r) _ _ _).trans (if_congr Iff.rfl (ignoresTimer_txRead 0 r s) rfl)

theorem ignoresTimer_txStep {p : TxPoint} (h : pendingDelay b (.tx p) = none) : IgnoresTimer (txStep p) := by
  cases p with
  | start => exact ignoresTimer_txStart
  | read i => exact ignoresTimer_txRead i
  | frame i d p => exact ignoresTimer_frameStep h d _ (ignoresTimer_txGap i)
  | gapDraw i => exact fun _ _ => rfl
  | _ => cases h

theorem ignoresTimer_contStep {p : RefillPoint} (h : contDelay b p = none) (src : Src) (at' : RefillPoint → Running) :
    IgnoresTimer (contStep src at' p) := by
  intro r s
  unfold contDelay at h
  unfold contStep
  split
  · rfl
  · next hne => exact ignoresTimer_refillStep ((if_neg hne).symm.trans h) src true at' ignoresTimer_complete r s

/-- Where SEQ stands before no Delay, the micro step is the same whether delays return or not. -/
theorem ignoresTimer_microStep {q : Running} (h : pendingDelay b q = none) : IgnoresTimer (microStep q) := by
  intro r s
  cases q with
  | encode | frame | setPwr => rfl
  | txByte p => exact ignoresTimer_frameStep h s.opData _ ignoresTimer_complete r s
  | tx p => exact ignoresTimer_txStep h r s
  | rawTx p =>
    cases p with
    | stream p => exact ignoresTimer_beginStep h (.mem s.opBase) s.opLength _ (ignoresTimer_goto _) r s
    | close p => exact ignoresTimer_endStep p _ ignoresTimer_complete r s
  | beginTx p => exact ignoresTimer_beginStep h (.mem s.opBase) s.opLength _ ignoresTimer_complete r s
  | cont p => exact ignoresTimer_contStep h (.mem s.opBase) _ r s
  | contZ p => exact ignoresTimer_contStep h .zero _ r s
  | endTx p => exact ignoresTimer_endStep p _ ignoresTimer_complete r s

end

/-! ### The Delays of a refill -/

/-- The first Delay of a refill, where it returns. -/
theorem refillStep_enter {s : State} (hd : s.delayReturns = true) (src : Src) (restart : Bool) (at' : RefillPoint → Running)
    (after : State → State) (off rem : Nat) :
    ∃ w r : Word, refillStep src restart at' after (.enter off rem) s = { s with
        trace := s.trace ++ [.delay s.build.refillQuantum], phase := .streaming, sessWritten := w, sessRemaining := r,
        seq := some (at' (.poll off rem)) } ∧
      (restart = true → w = 0#32 ∧ r.toNat = rem % 2 ^ s.build.lenWidth % 2 ^ 32) ∧
      (restart = false → w = s.sessWritten ∧ r = s.sessRemaining) := by
  rw [refillStep, delayThen_of_returns hd]
  cases restart with
  | false => exact ⟨_, _, rfl, by simp, fun _ => ⟨rfl, rfl⟩⟩
  | true => exact ⟨_, _, rfl, fun _ => ⟨rfl, BitVec.toNat_ofNat _ _⟩, by simp⟩

theorem refillStep_delay {s : State} (hd : s.delayReturns = true) (src : Src) (restart : Bool) (at' : RefillPoint → Running)
    (after : State → State) (off rem : Nat) :
    refillStep src restart at' after (.delay off rem) s = { s with
      trace := s.trace ++ [.delay s.build.refillQuantum], seq := some (at' (.poll off rem)) } := by
  rw [refillStep, delayThen_of_returns hd]
  rfl

/-- Settles O41: before a Delay the step is that Delay, elsewhere it ignores the timing service. -/
theorem delayThatDoesNotReturnHangs : Obligations.DelayThatDoesNotReturnHangs := by
  intro s q hq
  refine ⟨fun ho => ?_, fun ms hms hd => ?_, fun hnone => ?_, fun restart at' off rem hp hd => ⟨?_, ?_⟩, ?_, ?_⟩
  · rw [exec_of_seq hq, microStep_of_delayOutstanding hq ho]
  · obtain ⟨after, hs, e⟩ := microStep_delaysFor hms
    refine ⟨_, exec_of_seq hq, ?_⟩
    rw [e, delayThen_of_returns hd, (hs _).trace_eq]
    rfl
  · rw [exec_of_seq hq]
    exact (exec_of_seq (s := setTimer (!s.delayReturns) s) hq).trans
      (congrArg Host.Outcome.next (ignoresTimer_microStep hnone (!s.delayReturns) s).symm)
  · rintro rfl hc hz
    obtain ⟨src, after, -, -, e⟩ := hp.microStep_eq s
    rw [exec_of_seq hq, e _ hc hz]
    obtain ⟨w, r, hstep, hrest⟩ := refillStep_enter hd src restart at' after off rem
    exact ⟨w, r, congrArg Host.Outcome.next hstep, hrest⟩
  · rintro rfl
    obtain ⟨src, after, -, e⟩ := hp.microStep_of_ne s
    rw [exec_of_seq hq, e _ (by simp), refillStep_delay hd]
  · rintro r0 rfl
    rfl
  · rintro i ms rfl
    rfl

end Sys2Proof.Machine
end

section
/-! SUPPORT. The waits of LSTX (42_fifo_stream.md R77, R78; 60_exceptions.md R105): what the strobes of a wait return, and that a wait strobes NOP until the awaited status comes. A procedure's first poll is a later poll of the state in which the registers written with it are already set. -/

namespace Sys2Proof.Machine

/-! ### The answers to successive strobes -/

theorem statusAt_zero (s : State) : statusAt s 0 = s.nextStatus := by
  unfold statusAt State.nextStatus
  cases s.devIn <;> simp

theorem statusAt_strobe (c : Byte) (s : State) (m : Nat) : statusAt (strobe c s) m = statusAt s (m + 1) := by
  unfold statusAt
  cases h : s.devIn with
  | nil => simp [h]; congr 1; omega
  | cons b bs => simp [h]

/-- The state after `n` strobes of `c` in a row. -/
def strobes (c : Byte) (n : Nat) (s : State) : State :=
  { s with
    trace := s.trace ++ (List.range n).map (fun m => .strobe c (statusAt s m))
    lastDev := if n = 0 then s.lastDev else statusAt s (n - 1)
    devIn := s.devIn.drop n
    devDraws := s.devDraws + (n - s.devIn.length) }

theorem strobes_zero (c : Byte) (s : State) : strobes c 0 s = s := by
  simp [strobes]

theorem strobes_succ (c : Byte) (n : Nat) (s : State) : strobes c (n + 1) s = strobes c n (strobe c s) := by
  have htrace : s.trace ++ (List.range (n + 1)).map (fun m => Event.strobe c (statusAt s m)) =
      (strobe c s).trace ++ (List.range n).map (fun m => Event.strobe c (statusAt (strobe c s) m)) := by
    simp [List.range_succ_eq_map, statusAt_strobe, statusAt_zero, Function.comp_def]
  have hlast : (if n + 1 = 0 then s.lastDev else statusAt s (n + 1 - 1)) =
      if n = 0 then (strobe c s).lastDev else statusAt (strobe c s) (n - 1) := by
    cases n with
    | zero => simp [statusAt_zero]
    | succ n => simp [statusAt_strobe]
  have hdraws : s.devDraws + (n + 1 - s.devIn.length) = (strobe c s).devDraws + (n - (strobe c s).devIn.length) := by
    cases h : s.devIn with
    | nil => simp [h]; omega
    | cons b bs => simp [h]
  have hdev : s.devIn.drop (n + 1) = (strobe c s).devIn.drop n := by simp
  unfold strobes
  rw [htrace, hlast, hdraws, hdev]
  rfl

theorem goto_of_seq {s : State} {q : Running} (h : s.seq = some q) : goto q s = s := by
  rw [goto, ← h]

/-! ### A procedure's step for the same operands -/

/-- What a running command's steps depend on besides its point: the parameters and the latched operands (10_state.md R21). -/
structure SameOperands (s u : State) : Prop where
  build : u.build = s.build
  lData : u.lData = s.lData
  lAddr : u.lAddr = s.lAddr
  lLen  : u.lLen = s.lLen

theorem SameOperands.refl (s : State) : SameOperands s s := ⟨rfl, rfl, rfl, rfl⟩

theorem SameOperands.trans {s u v : State} (h : SameOperands s u) (k : SameOperands u v) : SameOperands s v :=
  ⟨k.build.trans h.build, k.lData.trans h.lData, k.lAddr.trans h.lAddr, k.lLen.trans h.lLen⟩

section
variable {s u : State} (h : SameOperands s u)
include h

theorem SameOperands.opData : u.opData = s.opData := h.lData
theorem SameOperands.opBase : u.opBase = s.opBase := congrArg BitVec.toNat h.lAddr
theorem SameOperands.opLength : u.opLength = s.opLength := congrArg BitVec.toNat h.lLen

end

/-- What follows a procedure does not look at the point SEQ is leaving. -/
def IgnoresSeq (after : State → State) : Prop := ∀ q u, after (goto q u) = after u

theorem ignoresSeq_txGap (i : Nat) : IgnoresSeq (txGap i) := by
  intro q u
  cases hm : u.build.paceMode <;> simp only [txGap, goto_build, hm] <;> rfl

/-- `BeginPlace.microStep_eq`, with one source, length and end for every state of the same operands. -/
theorem BeginPlace.runs {at' : BeginPoint → Running} (h : BeginPlace at') (s : State) :
    ∃ src len after, src ≠ .zero ∧ IgnoresSeq after ∧
      ∀ u, SameOperands s u → ∀ p, microStep (at' p) u = beginStep src len at' after p u := by
  cases h with
  | beginTx =>
    exact ⟨.mem s.opBase, s.opLength, complete, by simp, fun _ _ => rfl,
      fun u hu p => by rw [← hu.opBase, ← hu.opLength]; rfl⟩
  | rawTx =>
    exact ⟨.mem s.opBase, s.opLength, goto _, by simp, fun _ _ => rfl,
      fun u hu p => by rw [← hu.opBase, ← hu.opLength]; rfl⟩
  | txByte =>
    exact ⟨.rom (burstPrn s.opData 0), burstLen, goto _, by simp, fun _ _ => rfl, fun u hu p => by rw [← hu.opData]; rfl⟩
  | tx i d => exact ⟨.rom (burstPrn d 0), burstLen, goto _, by simp, fun _ _ => rfl, fun _ _ _ => rfl⟩

theorem EndPlace.runs {at' : EndPoint → Running} (h : EndPlace at') :
    ∃ after, IgnoresSeq after ∧ ∀ u p, microStep (at' p) u = endStep at' after p u := by
  cases h with
  | endTx => exact ⟨complete, fun _ _ => rfl, fun _ _ => rfl⟩
  | rawTx => exact ⟨complete, fun _ _ => rfl, fun _ _ => rfl⟩
  | txByte => exact ⟨complete, fun _ _ => rfl, fun _ _ => rfl⟩
  | tx i d => exact ⟨txGap i, ignoresSeq_txGap i, fun _ _ => rfl⟩

/-! ### A wait polls until its status comes -/

/-- In `q` the step is a NOP strobe that leads on to `q'` where the status meets `met`, and else stays, in every state with the
operands of `s`. -/
def Polls (s : State) (q q' : Running) (met : Byte → Bool) : Prop :=
  ∀ u, SameOperands s u → microStep q u = goto (if met u.nextStatus then q' else q) (strobe u.build.strobeNop u)

theorem Polls.later {s u : State} {q q' : Running} {met : Byte → Bool} (h : Polls s q q' met) (hu : SameOperands s u) :
    Polls u q q' met :=
  fun v hv => h v (hu.trans hv)

section
variable {s : State} {q q' : Running} {met : Byte → Bool}

/-- A poll that does not return the awaited status is a NOP strobe and nothing else. -/
theorem Polls.step_unmet (hp : Polls s q q' met) (hi : s.inputs = []) (hq : s.seq = some q)
    (hmet : met (statusAt s 0) = false) : step s = .next (strobe s.build.strobeNop s) := by
  rw [statusAt_zero] at hmet
  rw [step_of_seq hi hq, hp s (.refl s), hmet]
  exact congrArg Host.Outcome.next (goto_of_seq hq)

theorem Polls.runN_unmet (hp : Polls s q q' met) (hi : s.inputs = []) (hq : s.seq = some q) (n : Nat)
    (hn : ∀ m, m < n → met (statusAt s m) = false) : runN n s = .next (strobes s.build.strobeNop n s) := by
  induction n generalizing s with
  | zero => rw [strobes_zero]; rfl
  | succ n ih =>
    rw [runN_succ (hp.step_unmet hi hq (hn 0 (Nat.succ_pos n))), strobes_succ]
    exact ih (s := strobe s.build.strobeNop s) (hp.later ⟨rfl, rfl, rfl, rfl⟩) hi hq fun m hm => by
      rw [statusAt_strobe]
      exact hn (m + 1) (by omega)

/-- The wait is over with the strobe that returns the awaited status. -/
theorem Polls.runN_met (hp : Polls s q q' met) (hi : s.inputs = []) (hq : s.seq = some q) (n : Nat)
    (hn : ∀ m, m < n → met (statusAt s m) = false) (hmet : met (statusAt s n) = true) :
    runN (n + 1) s = .next (goto q' (strobes s.build.strobeNop (n + 1) s)) := by
  induction n generalizing s with
  | zero =>
    rw [statusAt_zero] at hmet
    rw [runN_succ (step_of_seq hi hq), hp s (.refl s), hmet, strobes_succ, strobes_zero]
    rfl
  | succ n ih =>
    rw [runN_succ (hp.step_unmet hi hq (hn 0 (Nat.succ_pos n))), strobes_succ]
    exact ih (s := strobe s.build.strobeNop s) (hp.later ⟨rfl, rfl, rfl, rfl⟩) hi hq
      (fun m hm => by rw [statusAt_strobe]; exact hn (m + 1) (by omega)) (by rw [statusAt_strobe]; exact hmet)

end

theorem runN_one {s : State} {q : Running} (hi : s.inputs = []) (hq : s.seq = some q) : runN 1 s = .next (microStep q s) :=
  runN_succ (step_of_seq hi hq) 0

/-- Two states with the same next step have the same longer runs. -/
theorem runN_congr {s u : State} (h : step s = step u) (n : Nat) : runN (n + 1) s = runN (n + 1) u := by
  simp only [runN, h]

/-! ### The waits of begin and end -/

theorem BeginPlace.polls_idle {at' : BeginPoint → Running} (h : BeginPlace at') (s : State) :
    Polls s (at' .idleWait) (at' .flush) isIdle := by
  intro u hu
  obtain ⟨src, len, after, -, -, e⟩ := h.runs s
  rw [e u hu, beginStep, idlePoll, apply_ite at']

theorem BeginPlace.polls_osc {at' : BeginPoint → Running} (h : BeginPlace at') (s : State) :
    ∃ q', Polls s (at' .oscWait) q' (oscStable s.build.oscMask) := by
  obtain ⟨src, len, after, -, -, e⟩ := h.runs s
  refine ⟨at' (.refill (.enter Config.fifoCapacity (len - Config.fifoCapacity))), fun u hu => ?_⟩
  rw [e u hu, beginStep, apply_ite at', hu.build]

theorem EndPlace.polls_drained {at' : EndPoint → Running} (h : EndPlace at') (s : State) :
    Polls s (at' .drainWait) (at' .idle) isDrained := by
  intro u _
  obtain ⟨after, -, e⟩ := h.runs
  rw [e, endStep, drainPoll, apply_ite at']

/-- A begin that has opened its session before its first poll: with that poll, it is where the begin's first step leads. -/
def openBegin (at' : BeginPoint → Running) (len : Nat) (s : State) : State :=
  goto (at' .idleWait) (openCount len (setPhase .flushing s))

/-- An end that has set PHASE before its first poll. -/
def openEnd (at' : EndPoint → Running) (s : State) : State := goto (at' .drainWait) (setPhase .draining s)

/-- The first poll of a begin is a later poll of the state in which the session is opened. -/
theorem runN_begin_enter {src : Src} {len : Nat} {at' : BeginPoint → Running} {after : State → State} {s : State}
    (hrun : ∀ u, SameOperands s u → ∀ p, microStep (at' p) u = beginStep src len at' after p u) (hi : s.inputs = [])
    (hq : s.seq = some (at' .enter)) (n : Nat) : runN (n + 1) s = runN (n + 1) (openBegin at' len s) := by
  refine runN_congr ?_ n
  rw [step_of_seq hi hq, hrun s (.refl s), step_of_seq (s := openBegin at' len s) hi rfl,
    hrun (openBegin at' len s) ⟨rfl, rfl, rfl, rfl⟩]
  rfl

theorem EndPlace.runN_enter {at' : EndPoint → Running} (h : EndPlace at') {s : State} (hi : s.inputs = [])
    (hq : s.seq = some (at' .enter)) (n : Nat) : runN (n + 1) s = runN (n + 1) (openEnd at' s) := by
  obtain ⟨after, -, e⟩ := h.runs
  refine runN_congr ?_ n
  rw [step_of_seq hi hq, e, step_of_seq (s := openEnd at' s) hi rfl, e]
  rfl

/-- Settles O39: the three waits poll, and a first poll is a later one of another state with the same answers to come. -/
theorem waitsPollWithoutBound : Obligations.WaitsPollWithoutBound := by
  intro s n hi
  refine ⟨fun at' hp hst => ⟨fun hq => ?_, fun hq hn => ?_⟩, fun at' hp hst hq => ?_,
    fun at' hp hst => ⟨fun hq => ?_, fun hq hn => ?_⟩⟩
  · exact ⟨_, (hp.polls_idle s).runN_unmet hi hq n hst, rfl, rfl, rfl, rfl⟩
  · obtain ⟨src, len, after, -, -, hrun⟩ := hp.runs s
    obtain ⟨k, rfl⟩ := Nat.exists_eq_add_one.mpr hn
    exact ⟨_, (runN_begin_enter hrun hi hq k).trans ((hp.polls_idle (openBegin at' len s)).runN_unmet hi rfl (k + 1) hst),
      rfl, rfl, rfl, rfl⟩
  · obtain ⟨q', hpolls⟩ := hp.polls_osc s
    exact ⟨_, hpolls.runN_unmet hi hq n hst, rfl, rfl, rfl, rfl⟩
  · exact ⟨_, (hp.polls_drained s).runN_unmet hi hq n hst, rfl, rfl, rfl, rfl⟩
  · obtain ⟨k, rfl⟩ := Nat.exists_eq_add_one.mpr hn
    exact ⟨_, (hp.runN_enter hi hq k).trans ((hp.polls_drained (openEnd at' s)).runN_unmet hi rfl (k + 1) hst),
      rfl, rfl, rfl, rfl⟩

/-! ### A listed device script -/

theorem statusAt_of_listed {s : State} {pre rest : List Byte} {x : Byte} (h : s.devIn = pre ++ x :: rest) :
    statusAt s pre.length = x := by
  simp [statusAt, h]

theorem statusAt_of_lt {s : State} {pre rest : List Byte} (h : s.devIn = pre ++ rest) {m : Nat} (hm : m < pre.length) :
    statusAt s m = pre[m] := by
  simp [statusAt, h, List.getElem?_append_left hm, List.getElem?_eq_getElem hm]

/-- The strobes of a wait whose answers are all listed. -/
theorem strobes_of_listed {s : State} {pre rest : List Byte} {x : Byte} (c : Byte) (h : s.devIn = pre ++ x :: rest) :
    strobes c (pre.length + 1) s = { s with
      trace := s.trace ++ pre.map (.strobe c) ++ [.strobe c x], lastDev := x, devIn := rest } := by
  have htrace : (List.range (pre.length + 1)).map (fun m => Event.strobe c (statusAt s m)) =
      pre.map (.strobe c) ++ [.strobe c x] := by
    rw [List.range_succ, List.map_append, List.map_singleton, statusAt_of_listed h]
    congr 1
    refine List.ext_getElem (by simp) fun m hm _ => ?_
    have hm : m < pre.length := by simpa using hm
    simp [statusAt_of_lt h hm]
  have hdraws : s.devDraws + (pre.length + 1 - s.devIn.length) = s.devDraws := by simp [h]
  have hdev : s.devIn.drop (pre.length + 1) = rest := by simp [h]
  rw [strobes, htrace, hdraws, hdev, if_neg (Nat.succ_ne_zero _), Nat.add_sub_cancel, statusAt_of_listed h, List.append_assoc]

/-- A strobe whose answer is listed. -/
theorem strobe_of_listed {s : State} {x : Byte} {rest : List Byte} (c : Byte) (h : s.devIn = x :: rest) :
    strobe c s = { s with trace := s.trace ++ [.strobe c x], lastDev := x, devIn := rest } := by
  simp [strobe, State.nextStatus, h]

/-- The drain wait on a device that answers some polls with another status and then 0x7F. -/
theorem EndPlace.runN_drained {at' : EndPoint → Running} (h : EndPlace at') {s : State} {pre rest : List Byte}
    (hi : s.inputs = []) (hq : s.seq = some (at' .enter)) (hpre : ∀ x ∈ pre, x ≠ 0x7F#8)
    (hdev : s.devIn = pre ++ 0x7F#8 :: rest) : runN (pre.length + 1) s = .next (goto (at' .idle) { s with
      trace := s.trace ++ pre.map (.strobe s.build.strobeNop) ++ [.strobe s.build.strobeNop 0x7F#8], lastDev := 0x7F#8,
      devIn := rest, phase := .draining }) := by
  have hwait := (h.polls_drained (openEnd at' s)).runN_met hi rfl pre.length
    (fun m hm => by
      rw [statusAt_of_lt (s := openEnd at' s) hdev hm]
      simpa [isDrained, Config.drainedStatus] using hpre _ (List.getElem_mem hm))
    (by rw [statusAt_of_listed (s := openEnd at' s) hdev]; rfl)
  rw [h.runN_enter hi hq, hwait, strobes_of_listed (s := openEnd at' s) _ hdev]
  rfl

/-- Settles O35: the drain wait, and then the IDLE strobe, which completes END. -/
theorem endRunsToTheDrainedStatus : Obligations.EndRunsToTheDrainedStatus := by
  intro s pre rest g hi hq hpre hdev
  have hwait := EndPlace.endTx.runN_drained hi hq hpre hdev
  refine (runN_add hwait 1).trans ((runN_one (q := .endTx .idle) (by exact hi) rfl).trans ?_)
  simp [microStep, endStep, complete, setPhase, goto, strobe, State.nextStatus]

end Sys2Proof.Machine
end

section
/-! SUPPORT. Passes of refill (42_fifo_stream.md R76): what a pass makes of a state, first for a chunk that reads nothing, then with the reads of a chunk in host memory; and so what a device that reports no free slot, or always one, makes of a refill. -/

namespace Sys2Proof.Machine

/-! ### The steps of a pass -/

/-- The points of `at'` take the steps of one refill, in every state with the operands of `s`. -/
def RunsRefill (s : State) (src : Src) (restart : Bool) (at' : RefillPoint → Running) (after : State → State) : Prop :=
  ∀ u, SameOperands s u → ∀ p, p ≠ .enter 0 0 → microStep (at' p) u = refillStep src restart at' after p u

theorem runsRefill_cont (s : State) : RunsRefill s (.mem s.opBase) true .cont complete := by
  intro u hu p hp
  rw [← hu.opBase]
  exact if_neg hp

theorem runsRefill_contZ (s : State) : RunsRefill s .zero true .contZ complete := fun _ _ _ hp => if_neg hp

/-- `RefillPlace.microStep_eq`, with one source and end for every state of the same operands. -/
theorem RefillPlace.runs {restart : Bool} {at' : RefillPoint → Running} (h : RefillPlace restart at') (s : State) :
    ∃ src after, (∀ p, (at' p).command = .contZ ↔ src = .zero) ∧ IgnoresSeq after ∧
      RunsRefill s src restart at' after := by
  cases h with
  | cont => exact ⟨_, _, by simp [Running.command], fun _ _ => rfl, runsRefill_cont s⟩
  | contZ => exact ⟨_, _, by simp [Running.command], fun _ _ => rfl, runsRefill_contZ s⟩
  | txByte k =>
    exact ⟨.rom (burstPrn s.opData k), goto _, by simp [Running.command], fun _ _ => rfl,
      fun u hu p _ => by rw [← hu.opData]; rfl⟩
  | tx i d k => exact ⟨.rom (burstPrn d k), goto _, by simp [Running.command], fun _ _ => rfl, fun _ _ _ _ => rfl⟩
  | ofBegin h =>
    obtain ⟨src, len, after, hsrc, ha, e⟩ := h.runs s
    exact ⟨src, after, fun p => iff_of_false (h.command_ne _) hsrc, ha, fun u hu p _ => e u hu (.refill p)⟩

section
variable {s : State} {src : Src} {restart : Bool} {at' : RefillPoint → Running} {after : State → State}

theorem RunsRefill.later {u : State} (h : RunsRefill s src restart at' after) (hu : SameOperands s u) :
    RunsRefill u src restart at' after :=
  fun v hv => h v (hu.trans hv)

/-- A refill that has done, before its first Delay, what it does with it. -/
def openRefill (restart : Bool) (at' : RefillPoint → Running) (off rem : Nat) (s : State) : State :=
  goto (at' (.delay off rem)) (refillOpen restart rem s)

theorem refillOpen_quiet (restart : Bool) (rem : Nat) (s : State) :
    (refillOpen restart rem s).inputs = s.inputs ∧ (refillOpen restart rem s).delayReturns = s.delayReturns ∧
      SameOperands s (refillOpen restart rem s) := by
  cases restart <;> exact ⟨rfl, rfl, rfl, rfl, rfl, rfl⟩

/-- The first Delay of a refill, where it returns, is a later one of the state opened for it. -/
theorem RunsRefill.runN_enter (h : RunsRefill s src restart at' after) {off rem : Nat} (hrem : 0 < rem) (hi : s.inputs = [])
    (hd : s.delayReturns = true) (hq : s.seq = some (at' (.enter off rem))) (n : Nat) :
    runN (n + 1) s = runN (n + 1) (openRefill restart at' off rem s) := by
  obtain ⟨hi', hd', hops⟩ := refillOpen_quiet restart rem s
  refine runN_congr ?_ n
  rw [step_of_seq hi hq, h s (.refl s) _ (by simp; omega), refillStep, delayThen_of_returns hd,
    step_of_seq (s := openRefill restart at' off rem s) (hi'.trans hi) rfl,
    h (openRefill restart at' off rem s) ⟨hops.build, hops.lData, hops.lAddr, hops.lLen⟩ _ (by simp), refillStep,
    delayThen_of_returns (s := openRefill restart at' off rem s) (hd'.trans hd)]
  cases restart <;> rfl

variable (h : RunsRefill s src restart at' after) (hi : s.inputs = []) {off rem : Nat}
include h hi

theorem RunsRefill.runN_delay (hd : s.delayReturns = true) (hq : s.seq = some (at' (.delay off rem))) :
    runN 1 s = .next (goto (at' (.poll off rem)) (emit (.delay s.build.refillQuantum) s)) := by
  rw [runN_one hi hq, h s (.refl s) _ (by simp), refillStep, delayThen_of_returns hd]

theorem RunsRefill.runN_poll (hq : s.seq = some (at' (.poll off rem))) :
    runN 1 s = .next (goto (at' (.chunk off rem (min (freeSlots s.nextStatus) rem) [])) (strobe s.build.strobeNop s)) := by
  rw [runN_one hi hq, h s (.refl s) _ (by simp), refillStep]

/-- Where a refill goes on after a chunk of `n` bytes. -/
def afterChunk (at' : RefillPoint → Running) (after : State → State) (off rem n : Nat) : State → State :=
  if rem - n = 0 then after else goto (at' (.delay (off + n) (rem - n)))

omit h hi in
theorem ignoresSeq_afterChunk (ha : IgnoresSeq after) (n : Nat) : IgnoresSeq (afterChunk at' after off rem n) := by
  unfold afterChunk
  split
  · exact ha
  · exact fun _ _ => rfl

theorem RunsRefill.runN_write {n : Nat} {buf : List Byte} (hq : s.seq = some (at' (.chunk off rem n buf)))
    (hread : ∀ base, src = .mem base → n ≤ buf.length) :
    runN 1 s = .next (afterChunk at' after off rem n (countWritten n (emit (chunkEvent src s.build off n buf) s))) := by
  rw [runN_one hi hq, h s (.refl s) _ (by simp), refillStep, chunkStep_write src _ _ s hread, afterChunk]

/-- A pass whose chunk reads no host memory is three steps. -/
theorem RunsRefill.runN_pass (ha : IgnoresSeq after) {n : Nat} (hd : s.delayReturns = true)
    (hq : s.seq = some (at' (.delay off rem))) (hn : min (freeSlots s.nextStatus) rem = n)
    (hread : ∀ base, src = .mem base → n = 0) :
    runN 3 s = .next (afterChunk at' after off rem n (countWritten n (emit (chunkEvent src s.build off n [])
      (strobe s.build.strobeNop (emit (.delay s.build.refillQuantum) s))))) := by
  subst hn
  have hops : ∀ {u}, SameOperands s u → RunsRefill u src restart at' after := h.later
  rw [show 3 = 1 + (1 + 1) from rfl, runN_add (h.runN_delay hi hd hq),
    runN_add (RunsRefill.runN_poll (s := goto _ (emit _ s)) (hops ⟨rfl, rfl, rfl, rfl⟩) hi rfl),
    RunsRefill.runN_write (s := goto _ (strobe _ (goto _ (emit _ s)))) (hops ⟨rfl, rfl, rfl, rfl⟩) hi rfl
      fun base hb => (hread base hb).le]
  exact congrArg Host.Outcome.next (ignoresSeq_afterChunk (at' := at') ha _ (at' (.chunk off rem _ []))
    (countWritten _ (emit (chunkEvent src s.build off _ [])
      (strobe s.build.strobeNop (emit (.delay s.build.refillQuantum) s)))))

end

/-! ### No free slot -/

theorem cutTo_toNat_self {width : Nat} {x : Word} (h : x.toNat < 2 ^ width) : cutTo width x.toNat = x :=
  BitVec.eq_of_toNat_eq (by rw [cutTo_toNat_word, Nat.mod_eq_of_lt h])

/-- A write of no byte leaves counters that fit their registers. -/
theorem countWritten_zero {s : State} (hw : s.sessWritten.toNat < 2 ^ s.build.lenWidth)
    (hr : s.sessRemaining.toNat < 2 ^ s.build.lenWidth) : countWritten 0 s = s := by
  have hw' : s.lenCut (s.sessWritten.toNat + 0) = s.sessWritten := cutTo_toNat_self hw
  have hr' : s.lenCut (s.sessRemaining - BitVec.ofNat 32 0).toNat = s.sessRemaining := by
    rw [BitVec.sub_zero]
    exact cutTo_toNat_self hr
  rw [countWritten, hw', hr']

/-- The write event of an empty chunk, in a place whose source is ZERO in CONTZ alone. -/
theorem chunkEvent_empty {src : Src} {q : Running} (hz : q.command = .contZ ↔ src = .zero) (b : Build) (off : Nat) :
    chunkEvent src b off 0 [] = if q.command = .contZ then .writeZeros 0 else .writeBuf [] := by
  cases src with
  | zero => rw [if_pos (hz.mpr rfl)]; rfl
  | rom t => rw [if_neg fun hc => by simpa using hz.mp hc]; rfl
  | mem base => rw [if_neg fun hc => by simpa using hz.mp hc]; rfl

section
variable {s : State} {src : Src} {restart : Bool} {at' : RefillPoint → Running} {after : State → State} {off rem : Nat}

/-- A pass that is told 0 free slots leaves SEQ where it was. -/
theorem RunsRefill.runN_emptyPass (h : RunsRefill s src restart at' after) (ha : IgnoresSeq after) (hi : s.inputs = [])
    (hd : s.delayReturns = true) (hrem : 0 < rem) (hq : s.seq = some (at' (.delay off rem)))
    (hst : freeSlots s.nextStatus = 0) :
    runN 3 s = .next (countWritten 0 (emit (chunkEvent src s.build off 0 [])
      (strobe s.build.strobeNop (emit (.delay s.build.refillQuantum) s)))) := by
  rw [h.runN_pass hi ha (n := 0) hd hq (by simp [hst]) fun _ _ => rfl, afterChunk, if_neg (by omega)]
  exact congrArg Host.Outcome.next (goto_of_seq hq)

/-- The events of a pass that is told 0 free slots by its poll, number `m` from now on. -/
def emptyPass (s : State) (write : Event) (m : Nat) : List Event :=
  [.delay s.build.refillQuantum, .strobe s.build.strobeNop (statusAt s m), write]

/-- The state after a pass that is told 0 free slots, where the counters fit their registers. -/
def afterEmptyPass (write : Event) (s : State) : State :=
  emit write (strobe s.build.strobeNop (emit (.delay s.build.refillQuantum) s))

theorem emptyPass_afterEmptyPass (s : State) (write : Event) (m : Nat) :
    emptyPass (afterEmptyPass write s) write m = emptyPass s write (m + 1) := by
  rw [emptyPass, emptyPass, ← statusAt_strobe s.build.strobeNop s m]
  rfl

theorem RunsRefill.runN_emptyPasses (h : RunsRefill s src restart at' after) (ha : IgnoresSeq after) (n : Nat)
    (hi : s.inputs = []) (hd : s.delayReturns = true) (hrem : 0 < rem) (hq : s.seq = some (at' (.delay off rem)))
    (hw : s.sessWritten.toNat < 2 ^ s.build.lenWidth) (hr : s.sessRemaining.toNat < 2 ^ s.build.lenWidth)
    (hst : ∀ m, m < n → freeSlots (statusAt s m) = 0) :
    ∃ t, runN (3 * n) s = .next t ∧ t.seq = s.seq ∧ t.busy = s.busy ∧ t.phase = s.phase ∧
      t.sessWritten = s.sessWritten ∧ t.sessRemaining = s.sessRemaining ∧
      t.trace = s.trace ++ ((List.range n).map (emptyPass s (chunkEvent src s.build off 0 []))).flatten := by
  induction n generalizing s with
  | zero => exact ⟨s, rfl, rfl, rfl, rfl, rfl, rfl, by simp⟩
  | succ n ih =>
    have hpass : runN 3 s = .next (afterEmptyPass (chunkEvent src s.build off 0 []) s) := by
      rw [h.runN_emptyPass ha hi hd hrem hq (by rw [← statusAt_zero]; exact hst 0 (Nat.succ_pos n)),
        countWritten_zero (by exact hw) (by exact hr)]
      rfl
    obtain ⟨t, ht, hseq, hbusy, hphase, hwr, hre, htr⟩ := ih (s := afterEmptyPass (chunkEvent src s.build off 0 []) s)
      (h.later ⟨rfl, rfl, rfl, rfl⟩) hi hd hq hw hr
      fun m hm => (congrArg freeSlots (statusAt_strobe s.build.strobeNop s m)).trans (hst (m + 1) (by omega))
    refine ⟨t, ?_, hseq, hbusy, hphase, hwr, hre, ?_⟩
    · rw [Nat.mul_succ, Nat.add_comm, runN_add hpass]
      exact ht
    · have htail : (List.range n).map (emptyPass (afterEmptyPass (chunkEvent src s.build off 0 []) s)
          (chunkEvent src s.build off 0 [])) =
          (List.range n).map (fun m => emptyPass s (chunkEvent src s.build off 0 []) (m + 1)) :=
        List.map_congr_left fun m _ => emptyPass_afterEmptyPass s _ m
      have hhead : (afterEmptyPass (chunkEvent src s.build off 0 []) s).trace =
          s.trace ++ emptyPass s (chunkEvent src s.build off 0 []) 0 := by
        simp [afterEmptyPass, emptyPass, statusAt_zero, State.nextStatus]
      rw [htr, hhead, List.range_succ_eq_map]
      simp only [List.map_cons, List.map_map, List.flatten_cons, List.append_assoc]
      exact congrArg (fun l => s.trace ++ (emptyPass s _ 0 ++ List.flatten l)) htail

end

/-- Settles O40: a later pass leaves SEQ and the counters, and a first pass is a later one of the opened refill. -/
theorem refillWithoutFreeSlotsAdvancesNothing : Obligations.RefillWithoutFreeSlotsAdvancesNothing := by
  intro s restart at' off rem n hp hi hd hrem hst
  obtain ⟨src, after, hz, ha, h⟩ := hp.runs s
  have hwrite := chunkEvent_empty (hz (.delay off rem)) s.build off
  refine ⟨fun hq hw hr => ?_, fun hq hn => ?_⟩
  · rw [← hwrite]
    exact h.runN_emptyPasses ha n hi hd hrem hq hw hr hst
  · obtain ⟨hi', hd', hops⟩ := refillOpen_quiet restart rem s
    have hfree : freeSlots s.nextStatus = 0 := by rw [← statusAt_zero]; exact hst 0 hn
    have hopen := h.later (u := openRefill restart at' off rem s) ⟨hops.build, hops.lData, hops.lAddr, hops.lLen⟩
    have hpass := hopen.runN_emptyPass ha (hi'.trans hi) (hd'.trans hd) hrem rfl (by cases restart <;> exact hfree)
    refine ⟨_, (h.runN_enter hrem hi hd hq 2).trans hpass, rfl, ?_, ?_, ?_, ?_, ?_⟩
    · cases restart <;> rfl
    · cases restart <;> rfl
    · rintro rfl
      refine ⟨by simp [openRefill, refillOpen, countWritten, openCount, State.lenCut, cutTo], fun hw h32 => ?_⟩
      have hrem' : (s.lenCut rem).toNat = rem := by
        rw [State.lenCut, cutTo, BitVec.toNat_ofNat, Nat.mod_eq_of_lt hw, Nat.mod_eq_of_lt h32]
      exact (countWritten_remaining (Nat.zero_le _) (cutTo_toNat_lt s.build.lenWidth rem)).trans hrem'
    · rintro rfl hw hr
      rw [countWritten_zero (by exact hw) (by exact hr)]
      exact ⟨rfl, rfl⟩
    · rw [← hwrite, statusAt_zero]
      cases restart <;> simp [openRefill, refillOpen, State.nextStatus]

end Sys2Proof.Machine
end

section
/-! SUPPORT. A refill on a device that always reports a free slot (42_fifo_stream.md R76, R81): each pass takes a bounded number of steps for each byte it writes. -/

namespace Sys2Proof.Machine

section
variable {s : State} {src : Src} {restart : Bool} {at' : RefillPoint → Running} {after : State → State} {off rem n : Nat}

/-- The reads of a chunk in host memory, one a step. -/
theorem RunsRefill.runN_reads {base : Nat} (h : RunsRefill s (.mem base) restart at' after) (hi : s.inputs = []) (k : Nat)
    {buf : List Byte} (hq : s.seq = some (at' (.chunk off rem n buf))) (hk : buf.length + k ≤ n)
    (hadm : ∀ j, j < k → admits s.build (base + off + (buf.length + j)) = true) :
    ∃ es bs, bs.length = buf.length + k ∧
      runN k s = .next (goto (at' (.chunk off rem n bs)) { s with trace := es }) := by
  induction k generalizing s buf with
  | zero => exact ⟨s.trace, buf, rfl, congrArg Host.Outcome.next (goto_of_seq hq).symm⟩
  | succ k ih =>
    have hstep : microStep (at' (.chunk off rem n buf)) s = _ :=
      (h s (.refl s) _ (by simp)).trans (refillStep_read base restart at' after (by omega) (hadm 0 (Nat.succ_pos k)))
    obtain ⟨es, bs, hbs, hrun⟩ := ih (buf := buf ++ [Memory.read s.mem (base + off + buf.length)])
      (s := goto (at' (.chunk off rem n (buf ++ [Memory.read s.mem (base + off + buf.length)])))
        (emit (.memRead (base + off + buf.length) (Memory.read s.mem (base + off + buf.length))) s))
      (h.later ⟨rfl, rfl, rfl, rfl⟩) hi rfl (by simp; omega) fun j hj => by
        simpa [Nat.add_assoc, Nat.add_comm 1] using hadm (j + 1) (by omega)
    exact ⟨es, bs, by simpa [Nat.add_assoc, Nat.add_comm 1] using hbs, by
      rw [runN_succ (step_of_seq hi hq), hstep]; exact hrun⟩

/-- How many steps of a chunk of `n` bytes are MemReads. -/
def readsOf (src : Src) (n : Nat) : Nat :=
  match src with
  | .mem _ => n
  | .rom _ => 0
  | .zero => 0

/-- A chunk with all its reads admitted comes to its write event. -/
theorem RunsRefill.runN_toWrite (h : RunsRefill s src restart at' after) (hi : s.inputs = [])
    (hq : s.seq = some (at' (.chunk off rem n [])))
    (hadm : ∀ base, src = .mem base → ∀ j, j < n → admits s.build (base + off + j) = true) :
    ∃ es buf, (∀ base, src = .mem base → n ≤ buf.length) ∧
      runN (readsOf src n) s = .next (goto (at' (.chunk off rem n buf)) { s with trace := es }) := by
  cases src with
  | mem base =>
    obtain ⟨es, bs, hbs, hrun⟩ := h.runN_reads hi n hq (by simp) (by simpa using hadm base rfl)
    exact ⟨es, bs, fun _ _ => by simp [hbs], hrun⟩
  | _ => exact ⟨s.trace, [], by simp, congrArg Host.Outcome.next (goto_of_seq hq).symm⟩

/-- A pass, with the reads of its chunk. -/
theorem RunsRefill.runN_fullPass (h : RunsRefill s src restart at' after) (ha : IgnoresSeq after) (hi : s.inputs = [])
    (hd : s.delayReturns = true) (hq : s.seq = some (at' (.delay off rem))) (hn : min (freeSlots s.nextStatus) rem = n)
    (hadm : ∀ base, src = .mem base → ∀ j, j < n → admits s.build (base + off + j) = true) :
    ∃ es, runN (3 + readsOf src n) s =
      .next (afterChunk at' after off rem n { countWritten n (strobe s.build.strobeNop s) with trace := es }) := by
  subst hn
  have hops : ∀ {u}, SameOperands s u → RunsRefill u src restart at' after := h.later
  obtain ⟨es, buf, hbuf, hreads⟩ := RunsRefill.runN_toWrite
    (s := goto (at' (.chunk off rem (min (freeSlots s.nextStatus) rem) []))
      (strobe s.build.strobeNop (emit (.delay s.build.refillQuantum) s)))
    (hops ⟨rfl, rfl, rfl, rfl⟩) hi rfl hadm
  have hwrite := RunsRefill.runN_write (s := goto (at' (.chunk off rem (min (freeSlots s.nextStatus) rem) buf))
      { strobe s.build.strobeNop (emit (.delay s.build.refillQuantum) s) with trace := es })
    (hops ⟨rfl, rfl, rfl, rfl⟩) hi rfl hbuf
  refine ⟨es ++ [chunkEvent src s.build off (min (freeSlots s.nextStatus) rem) buf], ?_⟩
  have hsteps : ∀ m, 3 + m = 1 + (1 + (m + 1)) := fun m => by omega
  rw [hsteps, runN_add (h.runN_delay hi hd hq),
    runN_add (RunsRefill.runN_poll (s := goto _ (emit _ s)) (hops ⟨rfl, rfl, rfl, rfl⟩) hi rfl)]
  refine (runN_add hreads 1).trans (hwrite.trans ?_)
  exact congrArg Host.Outcome.next (ignoresSeq_afterChunk (at' := at') ha _ (at' (.chunk off rem _ buf))
    { countWritten _ (strobe s.build.strobeNop s) with
      trace := es ++ [chunkEvent src s.build off (min (freeSlots s.nextStatus) rem) buf] })

/-- The run completes within `k` steps, without a fault, PHASE being STREAMING. -/
def EndsWithin (k : Nat) (s : State) : Prop :=
  ∃ n t, n ≤ k ∧ runN n s = .next t ∧ t.busy = false ∧ t.seq = none ∧ t.fault = false ∧ t.phase = .streaming

theorem EndsWithin.of_run {m k : Nat} {u : State} (hm : runN m s = .next u) (h : EndsWithin k u) : EndsWithin (m + k) s := by
  obtain ⟨n, t, hn, ht, hend⟩ := h
  exact ⟨m + n, t, by omega, (runN_add hm n).trans ht, hend⟩

theorem EndsWithin.mono {k k' : Nat} (h : EndsWithin k s) (hk : k ≤ k') : EndsWithin k' s := by
  obtain ⟨n, t, hn, h⟩ := h
  exact ⟨n, t, hn.trans hk, h⟩

/-- The device reports a free slot at each of at least `rem` polls to come, in an undisturbed refill. -/
structure SlotsFree (s : State) (rem : Nat) : Prop where
  quiet   : s.inputs = []
  delays  : s.delayReturns = true
  noFault : s.fault = false
  phase   : s.phase = .streaming
  listed  : rem ≤ s.devIn.length
  free    : ∀ x, x ∈ s.devIn → freeSlots x ≠ 0

theorem nextStatus_mem_devIn (h : s.devIn ≠ []) : s.nextStatus ∈ s.devIn := by
  obtain ⟨x, xs, hx⟩ := List.exists_cons_of_ne_nil h
  simp [State.nextStatus, hx]

/-- A pass with a free slot writes a byte at least, and takes `k` steps a byte at most. -/
theorem RunsRefill.endsWithin {k : Nat} (h : RunsRefill s src restart at' complete)
    (hk : ∀ n, 0 < n → 3 + readsOf src n ≤ k * n) (hs : SlotsFree s rem) (hrem : 0 < rem)
    (hq : s.seq = some (at' (.delay off rem)))
    (hadm : ∀ base, src = .mem base → ∀ j, off ≤ j → j < off + rem → admits s.build (base + j) = true) :
    EndsWithin (k * rem) s := by
  induction rem using Nat.strong_induction_on generalizing s off with
  | _ rem ih =>
    have hdev : s.devIn ≠ [] := List.ne_nil_of_length_pos (hrem.trans_le hs.listed)
    have hfree := hs.free _ (nextStatus_mem_devIn hdev)
    obtain ⟨n, hn⟩ : ∃ n, min (freeSlots s.nextStatus) rem = n := ⟨_, rfl⟩
    obtain ⟨es, hpass⟩ := h.runN_fullPass (fun _ _ => rfl) hs.quiet hs.delays hq hn fun base hb j hj => by
      rw [Nat.add_assoc]
      exact hadm base hb (off + j) (Nat.le_add_right _ _) (by omega)
    have hlen := hk n (by omega)
    have hsum : k * n + k * (rem - n) = k * rem := by rw [← Nat.mul_add, Nat.add_sub_cancel' (by omega)]
    by_cases hlast : rem - n = 0
    · rw [afterChunk, if_pos hlast] at hpass
      exact ⟨_, _, by omega, hpass, rfl, rfl, hs.noFault, hs.phase⟩
    · rw [afterChunk, if_neg hlast] at hpass
      have hrest := ih (rem - n) (by omega)
        (s := goto (at' (.delay (off + n) (rem - n))) { countWritten n (strobe s.build.strobeNop s) with trace := es })
        (h.later ⟨rfl, rfl, rfl, rfl⟩)
        { quiet := hs.quiet, delays := hs.delays, noFault := hs.noFault, phase := hs.phase
          listed := by
            have := hs.listed
            simp
            omega
          free := fun x hx => hs.free x (List.mem_of_mem_tail hx) }
        (by omega) rfl fun base hb j hlo hhi => hadm base hb j (by omega) (by omega)
      exact (EndsWithin.of_run hpass hrest).mono (by omega)

/-- The same from a refill's first point. -/
theorem RunsRefill.endsWithin_enter {k : Nat} (h : RunsRefill s src true at' complete)
    (hk : ∀ n, 0 < n → 3 + readsOf src n ≤ k * n) (hi : s.inputs = []) (hd : s.delayReturns = true) (hf : s.fault = false)
    (hrem : 0 < rem) (hlen : rem ≤ s.devIn.length) (hfree : ∀ x, x ∈ s.devIn → freeSlots x ≠ 0)
    (hq : s.seq = some (at' (.enter off rem)))
    (hadm : ∀ base, src = .mem base → ∀ j, off ≤ j → j < off + rem → admits s.build (base + j) = true) :
    EndsWithin (k * rem) s := by
  obtain ⟨n, t, hn, ht, hbusy, hseq, hrest⟩ := RunsRefill.endsWithin (s := openRefill true at' off rem s)
    (h.later ⟨rfl, rfl, rfl, rfl⟩) hk ⟨hi, hd, hf, rfl, hlen, hfree⟩ hrem rfl hadm
  cases n with
  | zero =>
    obtain rfl : openRefill true at' off rem s = t := by simpa [runN] using ht
    cases hseq
  | succ n => exact ⟨n + 1, t, hn, (h.runN_enter hrem hi hd hq n).trans ht, hbusy, hseq, hrest⟩

end

/-- Settles O36: three steps a pass and one a read, every pass writing a byte at least. -/
theorem continueEndsWhileSlotsAreFree : Obligations.ContinueEndsWhileSlotsAreFree := by
  intro s hi hd hf hlen hdev hfree
  have hslots : ∀ x, x ∈ s.devIn → freeSlots x ≠ 0 := fun x hx h0 => hfree x hx (BitVec.eq_of_toNat_eq h0)
  refine ⟨fun hq => ?_, fun hq hread => ?_⟩
  · exact (runsRefill_contZ s).endsWithin_enter (fun n hn => by simp [readsOf]; omega) hi hd hf hlen hdev hslots hq (by simp)
  · refine (runsRefill_cont s).endsWithin_enter (fun n hn => by simp [readsOf]; omega) hi hd hf hlen hdev hslots hq ?_
    rintro _ ⟨⟩ j - hj
    exact hread j (by simpa using hj)

end Sys2Proof.Machine
end

section
/-! SUPPORT. The begin procedure on a listed device script (42_fifo_stream.md R77): the idle wait in every command, and the whole BEGIN of one chunk. -/

namespace Sys2Proof.Machine

/-- The idle wait on a device that answers some polls not idle and then idle. -/
theorem BeginPlace.runN_idle {at' : BeginPoint → Running} (h : BeginPlace at') {src : Src} {len : Nat} {after : State → State}
    {s : State} {pre rest : List Byte} {x : Byte}
    (hrun : ∀ u, SameOperands s u → ∀ p, microStep (at' p) u = beginStep src len at' after p u) (hi : s.inputs = [])
    (hq : s.seq = some (at' .enter)) (hpre : ∀ y ∈ pre, isIdle y = false) (hx : isIdle x = true)
    (hdev : s.devIn = pre ++ x :: rest) :
    runN (pre.length + 1) s = .next (goto (at' .flush) (openCount len { s with
      trace := s.trace ++ pre.map (.strobe s.build.strobeNop) ++ [.strobe s.build.strobeNop x], lastDev := x,
      devIn := rest, phase := .flushing })) := by
  have hwait := (h.polls_idle (openBegin at' len s)).runN_met hi rfl pre.length
    (fun m hm => by
      rw [statusAt_of_lt (s := openBegin at' len s) hdev hm]
      exact hpre _ (List.getElem_mem hm))
    (by rw [statusAt_of_listed (s := openBegin at' len s) hdev]; exact hx)
  rw [runN_begin_enter hrun hi hq, hwait, strobes_of_listed (s := openBegin at' len s) _ hdev]
  rfl

/-- The first `k` source bytes. -/
def firstBytes (s : State) (k : Nat) : List Byte := (List.range k).map fun j => Memory.read s.mem (s.opBase + j)

/-- The MemReads of the first `k` source bytes. -/
def firstReads (s : State) (k : Nat) : List Event :=
  (List.range k).map fun j => .memRead (s.opBase + j) (Memory.read s.mem (s.opBase + j))

theorem firstBytes_succ (s : State) (k : Nat) : firstBytes s (k + 1) = firstBytes s k ++ [Memory.read s.mem (s.opBase + k)] := by
  simp [firstBytes, List.range_succ]

theorem firstReads_succ (s : State) (k : Nat) :
    firstReads s (k + 1) = firstReads s k ++ [.memRead (s.opBase + k) (Memory.read s.mem (s.opBase + k))] := by
  simp [firstReads, List.range_succ]

@[simp] theorem length_firstBytes (s : State) (k : Nat) : (firstBytes s k).length = k := by simp [firstBytes]

@[simp] theorem firstBytes_eq_nil (s : State) (k : Nat) : firstBytes s k = [] ↔ k = 0 := by simp [firstBytes]

/-- The state in which BEGIN has read the first `k` bytes of its first chunk. -/
def filling (k : Nat) (s : State) : State :=
  goto (.beginTx (.fill (firstBytes s k)))
    { s with trace := s.trace ++ firstReads s k, phase := if k = 0 then s.phase else .initialFill }

section
variable {s : State} (hi : s.inputs = []) (hlen : s.opLength ≤ 64)
include hi hlen

/-- The reads of BEGIN's one chunk, one a step. -/
theorem runN_filling (hread : bufferReadable s.opBase s.opLength s) (hq : s.seq = some (.beginTx (.fill []))) {k : Nat}
    (hk : k ≤ s.opLength) : runN k s = .next (filling k s) := by
  induction k with
  | zero => simpa [filling, firstBytes, firstReads, runN] using (goto_of_seq hq).symm
  | succ k ih =>
    have hadm := memReadThen_cases (s.opBase + 0 + k)
      (fun v u => goto (.beginTx (.fill (firstBytes s k ++ [v]))) (markFill (firstBytes s k) u)) (filling k s)
    obtain ⟨-, hstep⟩ := hadm.resolve_right fun hno => by simpa [filling, hread k hk] using hno.1
    rw [runN_add (ih (by omega)), runN_one (q := .beginTx (.fill (firstBytes s k))) (by exact hi) rfl, microStep, beginStep,
      chunkStep_read _ _ _ _ (by rw [length_firstBytes]; exact lt_min hk (by exact hk.trans hlen)), length_firstBytes]
    refine congrArg Host.Outcome.next (hstep.trans ?_)
    simpa [filling, markFill_eq_setPhase, firstBytes_succ, firstReads_succ, goto, emit, setPhase] using
      fun hk h0 => absurd h0 hk

/-- The write event of BEGIN's one chunk, and START_TX. -/
theorem runN_filled {g : Byte} {rest : List Byte} (hdev : s.devIn = g :: rest) :
    runN (1 + 1) (filling s.opLength s) = .next (complete (countWritten s.opLength { s with
      trace := s.trace ++ firstReads s s.opLength ++ [.writeBuf (sourceBytes s), .strobe s.build.strobeStart g],
      phase := .initialFill, lastDev := g, devIn := rest })) := by
  have hmin : min s.opLength Config.fifoCapacity = s.opLength := min_eq_left hlen
  have hphase : (if (firstBytes s s.opLength).isEmpty then Phase.initialFill else (filling s.opLength s).phase) =
      .initialFill := by
    cases s.opLength <;> simp [filling]
  have hwrite : runN 1 (filling s.opLength s) = .next (goto (.beginTx .start) (setPhase .initialFill (countWritten s.opLength
      (emit (.writeBuf (sourceBytes s)) (filling s.opLength s))))) := by
    rw [runN_one (q := .beginTx (.fill (firstBytes s s.opLength))) (by exact hi) rfl, microStep, beginStep,
      chunkStep_write _ _ _ _ fun base _ => by rw [length_firstBytes]; exact hmin.le]
    rw [markFill_eq_setPhase]
    exact congrArg₂ (fun n ph => Host.Outcome.next (goto (.beginTx .start) (setPhase ph (countWritten n
      (emit (.writeBuf (sourceBytes s)) (filling s.opLength s)))))) hmin hphase
  rw [runN_add hwrite, runN_one (q := .beginTx .start) (by exact hi) rfl, microStep, beginStep, if_pos (by exact hlen)]
  refine congrArg Host.Outcome.next ?_
  rw [strobe_of_listed _ (by exact hdev)]
  simp [filling, goto, setPhase, countWritten, emit, complete, State.lenCut]

/-- BEGIN of at most 64 readable bytes, from FLUSH_TX on. -/
theorem runN_beginFlush (hread : bufferReadable s.opBase s.opLength s) (hq : s.seq = some (.beginTx .flush)) {f g : Byte}
    {rest : List Byte} (hdev : s.devIn = f :: g :: rest) :
    runN (1 + (s.opLength + (1 + 1))) s = .next (complete (countWritten s.opLength { s with
      trace := s.trace ++ [.strobe s.build.strobeFlush f] ++ firstReads s s.opLength ++
        [.writeBuf (sourceBytes s), .strobe s.build.strobeStart g],
      phase := .initialFill, lastDev := g, devIn := rest })) := by
  have hflush : runN 1 s = .next (goto (.beginTx (.fill [])) { s with
      trace := s.trace ++ [.strobe s.build.strobeFlush f], lastDev := f, devIn := g :: rest }) := by
    rw [runN_one hi hq, microStep, beginStep, strobe_of_listed _ hdev]
  have hfill := runN_filling (s := goto (.beginTx (.fill [])) { s with
    trace := s.trace ++ [.strobe s.build.strobeFlush f], lastDev := f, devIn := g :: rest }) hi hlen hread rfl le_rfl
  have hfilled := runN_filled (s := goto (.beginTx (.fill [])) { s with
    trace := s.trace ++ [.strobe s.build.strobeFlush f], lastDev := f, devIn := g :: rest }) hi hlen rfl
  exact (runN_add hflush _).trans ((runN_add hfill 2).trans hfilled)

end

/-- Settles O33: the idle wait, FLUSH_TX, the reads, the write and START_TX. -/
theorem beginOfOneChunkRuns : Obligations.BeginOfOneChunkRuns := by
  intro s pre rest idleSt f g hi hq hlen hfit hread hpre hidle hdev
  have hidleWait := BeginPlace.beginTx.runN_idle (src := .mem s.opBase) (len := s.opLength) (after := complete)
    (fun u hu p => by rw [← hu.opBase, ← hu.opLength]; rfl) hi hq (by simpa [isIdle, chipState] using hpre)
    (by simpa [isIdle, chipState] using hidle) hdev
  have hflush := runN_beginFlush (s := goto (.beginTx .flush) (openCount s.opLength { s with
    trace := s.trace ++ pre.map (.strobe s.build.strobeNop) ++ [.strobe s.build.strobeNop idleSt], lastDev := idleSt,
    devIn := f :: g :: rest, phase := .flushing })) hi hlen hread rfl rfl
  have hcut : s.lenCut s.opLength = s.lLen := cutTo_toNat_self hfit
  have hsteps : pre.length + s.lLen.toNat + 4 = pre.length + 1 + (1 + (s.opLength + (1 + 1))) := by
    rw [State.opLength]
    omega
  refine ⟨_, (congrArg (runN · s) hsteps).trans ((runN_add hidleWait _).trans hflush), ?_,
    rfl, rfl, rfl, rfl, rfl, rfl, ?_, ?_⟩
  · change s.trace ++ pre.map _ ++ [.strobe _ idleSt] ++ [.strobe _ f] ++ firstReads s s.opLength ++
      [.writeBuf (sourceBytes s), .strobe _ g] = _
    simp [firstReads, State.opBase, State.opLength]
  · change cutTo s.build.lenWidth (0 + s.lLen.toNat) = s.lLen
    rw [Nat.zero_add]
    exact hcut
  · change s.lenCut (s.lenCut s.opLength - BitVec.ofNat 32 s.lLen.toNat).toNat = 0#32
    rw [hcut, BitVec.ofNat_toNat, BitVec.setWidth_eq, BitVec.sub_self]
    simp [State.lenCut, cutTo]

end Sys2Proof.Machine
end

section
/-! SUPPORT. One frame on a device that always reports 15 free slots (43_pacer.md R87, R88): the events of its passes, bursts and ends, what a count of them comes to, and the run that appends them. -/

namespace Sys2Proof.Machine

/-! ### The events of a frame -/

/-- The events of a refill pass whose poll returns `x`, for a chunk of `n` bytes of a PRN sequence. -/
def passEvents (b : Build) (t : Prn) (x : Byte) (off n : Nat) : List Event :=
  [.delay b.refillQuantum, .strobe b.strobeNop x, chunkEvent (.rom t) b off n []]

/-- The events of `m` passes of 15 bytes and one that writes the rest. -/
def passes (b : Build) (t : Prn) (x : Byte) : Nat → Nat → Nat → List Event
  | 0, off, rem => passEvents b t x off rem
  | m + 1, off, rem => passEvents b t x off 15 ++ passes b t x m (off + 15) (rem - 15)

/-- The events of the first burst, which begin writes. -/
def firstBurstEvents (b : Build) (d idleSt f g : Byte) : List Event :=
  [.strobe b.strobeNop idleSt, .strobe b.strobeFlush f, chunkEvent (.rom (burstPrn d 0)) b 0 burstLen [], .strobe b.strobeStart g]

/-- The events of the `n` bursts after the first one. -/
def laterBurstEvents (b : Build) (d x : Byte) (n : Nat) : List Event :=
  ((List.range n).map fun k => passes b (burstPrn d (k + 1)) x 4 0 burstLen).flatten

/-- The events of a frame's end. -/
def closeEvents (b : Build) (e : Byte) : List Event := [.strobe b.strobeNop 0x7F#8, .strobe b.strobeIdle e]

/-- The events of a frame whose idle wait ends with its first poll, returning `idleSt`, and its drain wait likewise, and each of
whose refill polls returns `x`. -/
def frameEvents (b : Build) (d idleSt f g x e : Byte) : List Event :=
  firstBurstEvents b d idleSt f g ++ laterBurstEvents b d x 29 ++ closeEvents b e

theorem laterBurstEvents_succ (b : Build) (d x : Byte) (n : Nat) :
    laterBurstEvents b d x (n + 1) = laterBurstEvents b d x n ++ passes b (burstPrn d (n + 1)) x 4 0 burstLen := by
  simp [laterBurstEvents, List.range_succ]

/-! #### What they send -/

@[simp] theorem sentBytes_append (es es' : List Event) : sentBytes (es ++ es') = sentBytes es ++ sentBytes es' := by
  simp [sentBytes]

theorem romSlice_add (b : Build) (t : Prn) (off m n : Nat) :
    romSlice b t off (m + n) = romSlice b t off m ++ romSlice b t (off + m) n := by
  simp [romSlice, List.take_add]

theorem romSlice_burstLen (b : Build) (t : Prn) : romSlice b t 0 burstLen = prnBytes b t := by
  simp [romSlice, burstLen, length_prnBytes]

theorem sentBytes_passes (b : Build) (t : Prn) (x : Byte) (m off rem : Nat) (h : 15 * m ≤ rem) :
    sentBytes (passes b t x m off rem) = romSlice b t off rem := by
  induction m generalizing off rem with
  | zero => simp [passes, passEvents, sentBytes, eventBytes, chunkEvent]
  | succ m ih =>
    rw [passes, sentBytes_append, ih _ _ (by omega), ← Nat.add_sub_cancel' (by omega : 15 ≤ rem), romSlice_add]
    simp [passEvents, sentBytes, eventBytes, chunkEvent]

theorem sentBytes_laterBurstEvents (b : Build) (d x : Byte) (n : Nat) :
    sentBytes (laterBurstEvents b d x n) = ((List.range n).map fun k => burst b d (k + 1)).flatten := by
  induction n with
  | zero => rfl
  | succ n ih =>
    rw [laterBurstEvents_succ, sentBytes_append, ih, sentBytes_passes _ _ _ _ _ _ (by decide), romSlice_burstLen]
    simp [List.range_succ, burst]

/-- A frame's events send its chip stream. -/
theorem sentBytes_frame (b : Build) (d idleSt f g x e : Byte) : sentBytes (frameEvents b d idleSt f g x e) = chipStream b d := by
  have hstream : chipStream b d = burst b d 0 ++ ((List.range 29).map fun k => burst b d (k + 1)).flatten := by
    rw [chipStream, show Config.frameBits = 29 + 1 from rfl, List.range_succ_eq_map]
    simp [Function.comp_def]
  have hfirst : sentBytes (firstBurstEvents b d idleSt f g) = burst b d 0 := by
    simp [firstBurstEvents, sentBytes, eventBytes, chunkEvent, romSlice_burstLen, burst]
  have hclose : sentBytes (closeEvents b e) = [] := rfl
  rw [frameEvents, sentBytes_append, sentBytes_append, hfirst, sentBytes_laterBurstEvents, hclose, List.append_nil, hstream]

/-! #### How many of each there are -/

/-- A property of events that does not look at what a strobe returned or a buffer write sent. -/
structure CountsKinds (f : Event → Bool) : Prop where
  writeBuf : ∀ bs, f (.writeBuf bs) = f (.writeBuf [])
  strobe   : ∀ c x, f (.strobe c x) = f (.strobe c 0#8)

section
variable {f : Event → Bool} (hf : CountsKinds f) (b : Build) (d x : Byte)
include hf

theorem countP_passes (t : Prn) (m off rem : Nat) : (passes b t x m off rem).countP f =
    (m + 1) * ((f (.delay b.refillQuantum)).toNat + (f (.strobe b.strobeNop 0#8)).toNat + (f (.writeBuf [])).toNat) := by
  have hpass : ∀ off n, (passEvents b t x off n).countP f =
      (f (.delay b.refillQuantum)).toNat + (f (.strobe b.strobeNop 0#8)).toNat + (f (.writeBuf [])).toNat := by
    intro off n
    simp only [passEvents, chunkEvent, List.countP_cons, List.countP_nil, hf.strobe b.strobeNop x, hf.writeBuf (romSlice b t off n)]
    simp only [Bool.toNat, cond_eq_ite]
    omega
  induction m generalizing off rem with
  | zero => rw [passes, hpass, Nat.zero_add, Nat.one_mul]
  | succ m ih => rw [passes, List.countP_append, hpass, ih, Nat.succ_mul (m + 1), Nat.add_comm]

/-- A count of a frame's events, by what it says of each kind. -/
theorem countP_frame (idleSt g h e : Byte) :
    (frameEvents b d idleSt g h x e).countP f =
      146 * (f (.writeBuf [])).toNat + 145 * (f (.delay b.refillQuantum)).toNat + 147 * (f (.strobe b.strobeNop 0#8)).toNat +
        (f (.strobe b.strobeFlush 0#8)).toNat + (f (.strobe b.strobeStart 0#8)).toNat + (f (.strobe b.strobeIdle 0#8)).toNat := by
  have hlater : ∀ n, (laterBurstEvents b d x n).countP f =
      n * (5 * ((f (.delay b.refillQuantum)).toNat + (f (.strobe b.strobeNop 0#8)).toNat + (f (.writeBuf [])).toNat)) := by
    intro n
    induction n with
    | zero => simp [laterBurstEvents]
    | succ n ih => rw [laterBurstEvents_succ, List.countP_append, ih, countP_passes hf, Nat.add_mul n 1, Nat.one_mul]
  have hfirst : (firstBurstEvents b d idleSt g h).countP f = (f (.strobe b.strobeNop 0#8)).toNat +
      (f (.strobe b.strobeFlush 0#8)).toNat + (f (.writeBuf [])).toNat + (f (.strobe b.strobeStart 0#8)).toNat := by
    simp only [firstBurstEvents, chunkEvent, List.countP_cons, List.countP_nil, hf.strobe b.strobeNop idleSt,
      hf.strobe b.strobeFlush g, hf.strobe b.strobeStart h, hf.writeBuf (romSlice _ _ _ _), Bool.toNat, cond_eq_ite]
    omega
  have hclose : (closeEvents b e).countP f = (f (.strobe b.strobeNop 0#8)).toNat + (f (.strobe b.strobeIdle 0#8)).toNat := by
    simp only [closeEvents, List.countP_cons, List.countP_nil, hf.strobe b.strobeNop 0x7F#8, hf.strobe b.strobeIdle e, Bool.toNat,
      cond_eq_ite]
    omega
  rw [frameEvents, List.countP_append, List.countP_append, hfirst, hlater, hclose]
  omega

end

/-- A frame strobes NOP 147 times, and each other code once. -/
theorem strobeCount_frame (b : Build) (d idleSt f g x e c : Byte) : strobeCount c (frameEvents b d idleSt f g x e) =
    146 * 0 + 145 * 0 + 147 * (b.strobeNop == c).toNat + (b.strobeFlush == c).toNat + (b.strobeStart == c).toNat +
      (b.strobeIdle == c).toNat :=
  countP_frame ⟨fun _ => rfl, fun _ _ => rfl⟩ b d x idleSt f g e

/-! ### The run of a frame -/

/-- From `s` the events `es` are appended, the answers `rest` are to come, the counters are `w` and `r` in the width of a burst,
and delays return with no move pending; PHASE, LAST_DEV and SEQ apart, nothing else has changed. -/
structure Stage (s : State) (es : List Event) (rest : List Byte) (w r : Nat) (u : State) : Prop where
  trace     : u.trace = s.trace ++ es
  devIn     : u.devIn = rest
  written   : u.sessWritten.toNat = w
  remaining : u.sessRemaining.toNat = r
  fits      : LenFits s.build burstLen
  ops       : SameOperands s u
  quiet     : u.inputs = []
  delays    : u.delayReturns = true
  fault     : u.fault = s.fault
  result    : u.result = s.result

section
variable {s u : State} {es : List Event} {x : Byte} {rest : List Byte}

theorem Stage.at_goto {w r : Nat} (h : Stage s es rest w r u) (q : Running) : Stage s es rest w r (goto q u) :=
  ⟨h.trace, h.devIn, h.written, h.remaining, h.fits, h.ops.trans ⟨rfl, rfl, rfl, rfl⟩, h.quiet, h.delays, h.fault, h.result⟩

theorem Stage.at_setPhase {w r : Nat} (h : Stage s es rest w r u) (ph : Phase) : Stage s es rest w r (setPhase ph u) :=
  ⟨h.trace, h.devIn, h.written, h.remaining, h.fits, h.ops.trans ⟨rfl, rfl, rfl, rfl⟩, h.quiet, h.delays, h.fault, h.result⟩

theorem Stage.at_openCount {w r : Nat} (h : Stage s es rest w r u) : Stage s es rest 0 burstLen (openCount burstLen u) :=
  ⟨h.trace, h.devIn, rfl, openCount_remaining (h.ops.build ▸ h.fits), h.fits, h.ops.trans ⟨rfl, rfl, rfl, rfl⟩, h.quiet, h.delays,
    h.fault, h.result⟩

theorem Stage.at_emit {w r : Nat} (h : Stage s es rest w r u) (e : Event) : Stage s (es ++ [e]) rest w r (emit e u) :=
  ⟨by simp [h.trace], h.devIn, h.written, h.remaining, h.fits, h.ops.trans ⟨rfl, rfl, rfl, rfl⟩, h.quiet, h.delays, h.fault,
    h.result⟩

theorem Stage.nextStatus {w r : Nat} (h : Stage s es (x :: rest) w r u) : u.nextStatus = x := by
  simp [State.nextStatus, h.devIn]

theorem Stage.at_strobe {w r : Nat} (h : Stage s es (x :: rest) w r u) (c : Byte) :
    Stage s (es ++ [.strobe c x]) rest w r (strobe c u) :=
  ⟨by simp [h.trace, h.nextStatus], by simp [h.devIn], h.written, h.remaining, h.fits, h.ops.trans ⟨rfl, rfl, rfl, rfl⟩, h.quiet,
    h.delays, h.fault, h.result⟩

theorem Stage.at_countWritten {w r n : Nat} (h : Stage s es rest w r u) (hsum : w + r = burstLen) (hn : n ≤ r) :
    Stage s es rest (w + n) (r - n) (countWritten n u) := by
  have hfits : LenFits u.build burstLen := h.ops.build ▸ h.fits
  have hcount : u.sessWritten.toNat + u.sessRemaining.toNat = burstLen := by rw [h.written, h.remaining, hsum]
  obtain ⟨hw, hr⟩ := countWritten_counts hfits hcount (hn.trans_eq h.remaining.symm)
  exact ⟨h.trace, h.devIn, by rw [hw, h.written], by rw [hr, h.remaining], h.fits, h.ops.trans ⟨rfl, rfl, rfl, rfl⟩, h.quiet,
    h.delays, h.fault, h.result⟩

theorem Stage.at_complete {w r : Nat} (h : Stage s es rest w r u) : Stage s es rest w r (complete u) :=
  ⟨h.trace, h.devIn, h.written, h.remaining, h.fits, h.ops.trans ⟨rfl, rfl, rfl, rfl⟩, h.quiet, h.delays, h.fault, h.result⟩

section
variable {t : Prn} {restart : Bool} {at' : RefillPoint → Running} {after : State → State} {off rem : Nat}

/-- A pass that is told 15 free slots. -/
theorem Stage.runN_pass {n : Nat} (h : Stage s es (x :: rest) off rem u) (hrun : RunsRefill s (.rom t) restart at' after)
    (ha : IgnoresSeq after) (hx : freeSlots x = 15) (hsum : off + rem = burstLen) (hn : min 15 rem = n)
    (hq : u.seq = some (at' (.delay off rem))) :
    ∃ v, runN 3 u = .next (afterChunk at' after off rem n v) ∧
      Stage s (es ++ passEvents s.build t x off n) rest (off + n) (rem - n) v := by
  subst hn
  have hrun3 := (hrun.later h.ops).runN_pass h.quiet ha h.delays hq (by rw [h.nextStatus, hx]) (by simp)
  rw [h.ops.build] at hrun3
  have hstage := (((h.at_emit (.delay s.build.refillQuantum)).at_strobe s.build.strobeNop).at_emit
    (chunkEvent (.rom t) s.build off (min 15 rem) [])).at_countWritten hsum (min_le_right 15 rem)
  exact ⟨_, hrun3, by simpa [passEvents] using hstage⟩

/-- `m` passes of 15 bytes, and one that writes the rest. -/
theorem Stage.runN_passes {m : Nat} (h : Stage s es (List.replicate (m + 1) x ++ rest) off rem u)
    (hrun : RunsRefill s (.rom t) restart at' after) (ha : IgnoresSeq after) (hx : freeSlots x = 15)
    (hsum : off + rem = burstLen) (hlo : 15 * m < rem) (hhi : rem ≤ 15 * (m + 1)) (hq : u.seq = some (at' (.delay off rem))) :
    ∃ v, runN (3 * (m + 1)) u = .next (after v) ∧ Stage s (es ++ passes s.build t x m off rem) rest burstLen 0 v := by
  induction m generalizing u es off rem with
  | zero =>
    obtain ⟨v, hv, hstage⟩ := h.runN_pass hrun ha hx hsum (min_eq_right (by omega)) hq
    rw [afterChunk, if_pos (Nat.sub_self rem)] at hv
    rw [Nat.sub_self, hsum] at hstage
    exact ⟨v, hv, hstage⟩
  | succ m ih =>
    obtain ⟨v, hv, hstage⟩ := h.runN_pass hrun ha hx hsum (min_eq_left (by omega)) hq
    rw [afterChunk, if_neg (by omega)] at hv
    obtain ⟨w, hw, hlast⟩ := ih (hstage.at_goto _) (by omega) (by omega) (by omega) rfl
    refine ⟨w, ?_, by simpa [passes] using hlast⟩
    rw [Nat.mul_succ, Nat.add_comm, runN_add hv, hw]

end

/-- Where a frame goes on after `n` bursts besides the first. -/
def laterPoint (n : Nat) : FramePoint := if n + 1 < Config.frameBits then .burst (n + 1) (.enter 0 burstLen) else .last .enter

/-- A frame's `k`-th burst, for `k` past 0: five passes. -/
theorem Stage.runN_burst {w r k : Nat} (h : Stage s es (List.replicate 5 x ++ rest) w r u) (hx : freeSlots x = 15)
    (hq : u.seq = some (.txByte (.burst k (.enter 0 burstLen)))) :
    ∃ v, runN 15 u = .next (goto (.txByte (laterPoint k)) v) ∧
      Stage s (es ++ passes s.build (burstPrn s.opData k) x 4 0 burstLen) rest burstLen 0 v := by
  have hrun : RunsRefill s (.rom (burstPrn s.opData k)) true (fun p => .txByte (.burst k p)) (goto (.txByte (laterPoint k))) :=
    fun v hv p _ => by rw [← hv.opData]; rfl
  have hopen : Stage s es _ 0 burstLen (openRefill true (fun p => .txByte (.burst k p)) 0 burstLen u) :=
    (h.at_openCount.at_setPhase .streaming).at_goto _
  obtain ⟨v, hv, hstage⟩ := hopen.runN_passes (m := 4) hrun (fun _ _ => rfl) hx rfl (by decide) (by decide) rfl
  exact ⟨v, ((hrun.later h.ops).runN_enter (by decide) h.quiet h.delays hq 14).trans hv, hstage⟩

/-- The `n` bursts after the first one. -/
theorem Stage.runN_bursts {n : Nat} (h : Stage s es (List.replicate (5 * n) x ++ rest) burstLen 0 u) (hx : freeSlots x = 15)
    (hn : n < Config.frameBits) (hq : u.seq = some (.txByte (laterPoint 0))) :
    ∃ v, runN (15 * n) u = .next v ∧ v.seq = some (.txByte (laterPoint n)) ∧
      Stage s (es ++ laterBurstEvents s.build s.opData x n) rest burstLen 0 v := by
  induction n generalizing rest with
  | zero => exact ⟨u, rfl, hq, by simpa [laterBurstEvents] using h⟩
  | succ n ih =>
    obtain ⟨v, hv, hvq, hstage⟩ := ih (rest := List.replicate 5 x ++ rest)
      (by rwa [← List.append_assoc, List.replicate_append_replicate]) (by omega)
    rw [laterPoint, if_pos hn] at hvq
    obtain ⟨w, hw, hlast⟩ := hstage.runN_burst hx hvq
    refine ⟨_, (runN_add hv 15).trans hw, rfl, ?_⟩
    rw [laterBurstEvents_succ, ← List.append_assoc]
    exact hlast.at_goto _

/-- A step of a frame's first burst in TXBYTE. -/
def firstBurstStep (d : Byte) : BeginPoint → State → State :=
  beginStep (.rom (burstPrn d 0)) burstLen (fun p => .txByte (.first p)) (goto (.txByte (laterPoint 0)))

theorem microStep_firstBurst (hu : SameOperands s u) (p : BeginPoint) :
    microStep (.txByte (.first p)) u = firstBurstStep s.opData p u := by
  rw [← hu.opData]
  rfl

/-- The first burst, on a device that is idle. -/
theorem Stage.runN_firstBurst {w r : Nat} {idleSt f g : Byte} (h : Stage s es (idleSt :: f :: g :: rest) w r u)
    (hidle : isIdle idleSt = true) (hq : u.seq = some (.txByte (.first .enter))) :
    ∃ v, runN 4 u = .next v ∧ v.seq = some (.txByte (laterPoint 0)) ∧
      Stage s (es ++ firstBurstEvents s.build s.opData idleSt f g) rest burstLen 0 v := by
  have henter : firstBurstStep s.opData .enter u =
      openCount burstLen (setPhase .flushing (goto (.txByte (.first .flush)) (strobe u.build.strobeNop u))) := by
    rw [firstBurstStep, beginStep, idlePoll, h.nextStatus, if_pos hidle]
  have hpoll : Stage s _ (f :: g :: rest) 0 burstLen (firstBurstStep s.opData .enter u) :=
    henter ▸ (((h.at_strobe u.build.strobeNop).at_goto _).at_setPhase .flushing).at_openCount
  have hpollq : (firstBurstStep s.opData .enter u).seq = some (.txByte (.first .flush)) := henter ▸ rfl
  have hflush : Stage s _ (g :: rest) 0 burstLen (firstBurstStep s.opData .flush (firstBurstStep s.opData .enter u)) :=
    (hpoll.at_strobe _).at_goto _
  have hwrite : Stage s _ (g :: rest) burstLen 0
      (firstBurstStep s.opData (.fill []) (firstBurstStep s.opData .flush (firstBurstStep s.opData .enter u))) :=
    (((hflush.at_emit (chunkEvent (.rom (burstPrn s.opData 0)) _ 0 burstLen [])).at_countWritten rfl le_rfl).at_setPhase
      .initialFill).at_goto _
  have hstart : Stage s _ rest burstLen 0 (firstBurstStep s.opData .start
      (firstBurstStep s.opData (.fill []) (firstBurstStep s.opData .flush (firstBurstStep s.opData .enter u)))) :=
    (hwrite.at_strobe _).at_goto _
  rw [hwrite.ops.build, hflush.ops.build, hpoll.ops.build, h.ops.build] at hstart
  have hruns : ∀ v p, SameOperands s v → v.inputs = [] → v.seq = some (.txByte (.first p)) →
      runN 1 v = .next (firstBurstStep s.opData p v) := fun v p hv hi hq => by rw [runN_one hi hq, microStep_firstBurst hv]
  refine ⟨_, ?_, rfl, by simpa [firstBurstEvents] using hstart⟩
  calc runN (1 + (1 + (1 + 1))) u
    _ = runN (1 + (1 + 1)) _ := runN_add (hruns u .enter h.ops h.quiet hq) _
    _ = runN (1 + 1) _ := runN_add (hruns _ .flush hpoll.ops hpoll.quiet hpollq) _
    _ = runN 1 _ := runN_add (hruns _ (.fill []) hflush.ops hflush.quiet rfl) _
    _ = _ := hruns _ .start hwrite.ops hwrite.quiet rfl

/-- The end of a frame, on a device that is drained. -/
theorem Stage.runN_close {w r : Nat} {e : Byte} (h : Stage s es (0x7F#8 :: e :: rest) w r u)
    (hq : u.seq = some (.txByte (.last .enter))) :
    ∃ v, runN 2 u = .next v ∧ v.seq = none ∧ v.busy = false ∧ v.phase = .idle ∧ v.lastDev = e ∧
      Stage s (es ++ closeEvents s.build e) rest w r v := by
  have hdrain : microStep (.txByte (.last .enter)) u =
      setPhase .draining (goto (.txByte (.last .idle)) (strobe u.build.strobeNop u)) := by
    change setPhase .draining (drainPoll (fun p => .txByte (.last p)) u) = _
    rw [drainPoll, h.nextStatus]
    rfl
  have hpoll := ((h.at_strobe u.build.strobeNop).at_goto (.txByte (.last .idle))).at_setPhase .draining
  have hidle := ((hpoll.at_strobe u.build.strobeIdle).at_setPhase .idle).at_complete
  have hevents : es ++ [.strobe u.build.strobeNop 0x7F#8] ++ [.strobe u.build.strobeIdle e] = es ++ closeEvents s.build e := by
    simp [closeEvents, h.ops.build]
  rw [hevents] at hidle
  refine ⟨_, ?_, rfl, rfl, rfl, hpoll.nextStatus, hidle⟩
  calc runN (1 + 1) u
    _ = runN 1 _ := runN_add ((runN_one h.quiet hq).trans (congrArg Host.Outcome.next hdrain)) _
    _ = _ := runN_one (q := .txByte (.last .idle)) hpoll.quiet rfl

end

/-! ### The counts -/

/-- What the strobe codes and the counter width are in a build that is well formed. -/
theorem Build.wf_distinct_fits {b : Build} (h : b.wf = true) :
    [b.strobeIdle, b.strobeFlush, b.strobeStart, b.strobeNop].Nodup ∧ LenFits b burstLen := by
  simp only [Build.wf, Build.strobesDistinct, Build.widthsOk, Bool.and_eq_true, decide_eq_true_eq] at h
  obtain ⟨⟨⟨⟨-, hdistinct⟩, -⟩, -⟩, ⟨hlo, hhi⟩, -⟩ := h
  exact ⟨hdistinct, (by decide : 64 < 2 ^ 7).trans_le (Nat.pow_le_pow_right (by decide) hlo), hhi⟩

/-- Settles O37: the first burst in 4 steps, 29 bursts in 15 each and the end in 2, each with its own events. -/
theorem txByteRunsOneFrame : Obligations.TxByteRunsOneFrame := by
  intro s rest idleSt f g p e hi hd hwf hq hidle hp hdev
  obtain ⟨hdistinct, hfits⟩ := Build.wf_distinct_fits hwf
  have hopen : Stage s [] _ _ _ s :=
    ⟨(List.append_nil _).symm, hdev, rfl, rfl, hfits, .refl s, hi, hd, rfl, rfl⟩
  obtain ⟨u, hu, huq, hustage⟩ := hopen.runN_firstBurst (by simpa [isIdle, chipState] using hidle) hq
  have hfree : freeSlots p = 15 := by simpa [freeSlots] using congrArg BitVec.toNat hp
  obtain ⟨v, hv, hvq, hvstage⟩ := hustage.runN_bursts (n := 29) hfree (by decide) huq
  obtain ⟨t, ht, htq, hbusy, hphase, hlast, hstage⟩ := hvstage.runN_close hvq
  rw [List.nil_append] at hstage
  have hrun : runN (4 + (435 + 2)) s = .next t := by rw [runN_add hu, runN_add hv, ht]
  simp only [List.nodup_cons, List.mem_cons, List.not_mem_nil, not_or, or_false] at hdistinct
  obtain ⟨⟨hif, his, hin⟩, ⟨hfs, hfn⟩, hsn, -⟩ := hdistinct
  refine ⟨t, frameEvents s.build s.opData idleSt f g p e, hrun, hstage.trace, ?_, sentBytes_frame .., ?_, ?_, ?_, ?_,
    ?_, ?_, ?_, hbusy, hstage.fault, htq, hphase, hlast,
    hstage.devIn, hstage.result, BitVec.eq_of_toNat_eq hstage.written, BitVec.eq_of_toNat_eq hstage.remaining⟩
  · simpa using countP_frame (f := fun _ => true) ⟨fun _ => rfl, fun _ _ => rfl⟩ s.build s.opData p idleSt f g e
  · exact countP_frame ⟨fun _ => rfl, fun _ _ => rfl⟩ s.build s.opData p idleSt f g e
  · exact countP_frame ⟨fun _ => rfl, fun _ _ => rfl⟩ s.build s.opData p idleSt f g e
  · refine (countP_frame (f := (· == .delay s.build.refillQuantum))
      ⟨fun _ => by simp [beq_eq_decide], fun _ _ => by simp [beq_eq_decide]⟩ s.build s.opData p idleSt f g e).trans ?_
    simp [beq_eq_decide]
  all_goals
    rw [strobeCount_frame]
    simp [beq_eq_decide, hif, his, hin, hfs, hfn, hsn, Ne.symm hif, Ne.symm his, Ne.symm hin, Ne.symm hfs, Ne.symm hfn, Ne.symm hsn]

end Sys2Proof.Machine
end

section
/-! SUPPORT. Every run comes to its command's end where the awaited statuses come and delays return (70_reset_and_hazards.md R124): each point of each procedure ends if what follows the procedure does, a refill by induction on its remaining count and on the polls until a slot is free. -/

namespace Sys2Proof.Machine

/-! ### Ending, from a point and from a state -/

/-- The run comes to its command's end. -/
def Ends (s : State) : Prop := ∃ t, Reaches s t ∧ t.seq = none ∧ t.busy = false

/-- No move is pending, and the device and the timing service are live. -/
structure Live (s : State) : Prop where
  quiet  : s.inputs = []
  device : deviceLive s
  timer  : timerLive s

/-- A command with the operands of `s` comes to its end wherever it stands at `q`. -/
def EndsFrom (s : State) (q : Running) : Prop := ∀ u, SameOperands s u → Live u → u.seq = some q → Ends u

/-- A command with the operands of `s` comes to its end once it has reached the state `v`. -/
def Settles (s v : State) : Prop := SameOperands s v → Live v → Ends v

theorem Ends.of_reaches {s t : State} (r : Reaches s t) (h : Ends t) : Ends s := by
  obtain ⟨u, k, hu⟩ := h
  exact ⟨u, r.trans k, hu⟩

theorem Live.later {s t : State} (h : Live s) (r : Reaches s t) : Live t :=
  ⟨(r.quiet h.quiet).1, h.device.later r, h.timer.later r⟩

/-- A live timing service returns from the Delay that SEQ stands before, since LSTX would hang in it else. -/
theorem Live.delayReturns {s : State} (h : Live s) {q : Running} (hq : s.seq = some q) (hd : (pendingDelay s.build q).isSome) :
    s.delayReturns = true := by
  by_contra hno
  have ho : delayOutstanding s = true := by simp [delayOutstanding, hq, hd, Bool.eq_false_of_not_eq_true hno]
  have hhang : step s = .next s := by rw [step_of_seq h.quiet hq, microStep_of_delayOutstanding hq ho]
  obtain ⟨n, hn⟩ := h.timer s (.refl s) (by simp [sequencerMoves, h.quiet]) ho
  simp [returnsWithin_hung ho hhang n] at hn

theorem sameOperands_microStep (q : Running) (s : State) : SameOperands s (microStep q s) := by
  cases hq : q.writesResult with
  | false =>
    have h := (shape_microStep hq s).untouched
    exact ⟨h.build, h.lData, h.lAddr, h.lLen⟩
  | true =>
    cases q with
    | encode | frame | setPwr => exact ⟨rfl, rfl, rfl, rfl⟩
    | _ => cases hq

section
variable {s : State} {q q' : Running}

theorem settles_done {v : State} (hq : v.seq = none) (hb : v.busy = false) : Settles s v :=
  fun _ _ => ⟨v, .refl v, hq, hb⟩

theorem EndsFrom.settles (h : EndsFrom s q) {v : State} (hq : v.seq = some q) : Settles s v := fun hops hl => h v hops hl hq

theorem settles_goto (h : EndsFrom s q) (v : State) : Settles s (goto q v) := h.settles rfl

theorem settles_raise (a : Nat) (v : State) : Settles s (raiseMemFault a v) := settles_done rfl rfl

theorem endsFrom_of_step (h : ∀ u, SameOperands s u → ((pendingDelay u.build q).isSome → u.delayReturns = true) →
    Settles s (microStep q u)) : EndsFrom s q := by
  intro u hu hl hq
  have r : Reaches u (microStep q u) := .of_step (step_of_seq hl.quiet hq)
  exact .of_reaches r (h u hu (hl.delayReturns hq) (hu.trans (sameOperands_microStep q u)) (hl.later r))

/-- A step that is a Delay. -/
theorem settles_delayThen {u : State} {ms : Nat} {after : State → State} (hd : u.delayReturns = true)
    (h : Settles s (after (emit (.delay ms) u))) : Settles s (delayThen ms after u) :=
  delayThen_rule (fun hno => by simp [hd] at hno) fun _ => h

/-- A wait on a live device is over after some polls. -/
theorem Polls.endsFrom {met : Byte → Bool} {w : Wait} (hp : Polls s q q' met) (hw : awaits q = some w)
    (hmet : ∀ x, w.met s.build x = met x) (h : EndsFrom s q') : EndsFrom s q := by
  intro u hu hl hq
  have hsome : ∃ m, met (statusAt u m) = true := by
    obtain ⟨m, hm⟩ := hl.device u q w (.refl u) hq hw
    exact ⟨m, by rw [← hmet, ← hu.build, hm]⟩
  have hrun := (hp.later hu).runN_met hl.quiet hq (Nat.find hsome) (fun m hm => by simpa using Nat.find_min hsome hm)
    (Nat.find_spec hsome)
  exact .of_reaches ⟨_, hrun⟩ (h _ (hu.trans ⟨rfl, rfl, rfl, rfl⟩) (hl.later ⟨_, hrun⟩) rfl)

end

/-! ### Refill -/

section
variable {s : State} {src : Src} {restart : Bool} {at' : RefillPoint → Running} {after : State → State} {off rem n : Nat}

/-- A chunk ends if what follows it does. -/
theorem RunsRefill.chunk_endsFrom (h : RunsRefill s src restart at' after)
    (hnext : ∀ v, Settles s (afterChunk at' after off rem n v)) (buf : List Byte) :
    EndsFrom s (at' (.chunk off rem n buf)) := by
  induction hk : n - buf.length generalizing buf with
  | zero =>
    refine endsFrom_of_step fun u hu _ => ?_
    rw [h u hu _ (by simp), refillStep]
    exact chunkStep_rule (fun a _ => settles_raise a u) (fun _ _ _ _ _ _ hlt => absurd hlt (by omega)) fun _ => hnext _
  | succ k ih =>
    refine endsFrom_of_step fun u hu _ => ?_
    rw [h u hu _ (by simp), refillStep]
    exact chunkStep_rule (fun a _ => settles_raise a u)
      (fun _ _ _ _ _ _ _ => settles_goto (ih _ (by simp; omega)) _) fun _ => hnext _

variable (hp : RefillPlace restart at') (h : RunsRefill s src restart at' after)
include hp h

/-- A live run gets past a later Delay of a refill. -/
theorem RefillPlace.runN_liveDelay {u : State} (hu : SameOperands s u) (hl : Live u) (hq : u.seq = some (at' (.delay off rem))) :
    u.delayReturns = true ∧ runN 1 u = .next (goto (at' (.poll off rem)) (emit (.delay u.build.refillQuantum) u)) := by
  have hd : u.delayReturns = true := by
    obtain ⟨hc, hz⟩ := hp.ne_zeroLength (p := .delay off rem) (by simp)
    exact hl.delayReturns hq (by rw [hp.pendingDelay_eq _ _ hc hz]; rfl)
  exact ⟨hd, (h.later hu).runN_delay hl.quiet hd hq⟩

/-- A pass ends that is told a free slot, if every chunk of a byte or more does. -/
theorem RefillPlace.ends_of_free (hchunk : ∀ n, 0 < n → EndsFrom s (at' (.chunk off rem n []))) (hrem : 0 < rem) {u : State}
    (hu : SameOperands s u) (hl : Live u) (hq : u.seq = some (at' (.delay off rem))) (hfree : freeSlots u.nextStatus ≠ 0) :
    Ends u := by
  have r : Reaches u _ := .trans ⟨1, (hp.runN_liveDelay h hu hl hq).2⟩
    ⟨1, RunsRefill.runN_poll (s := goto _ (emit _ u)) (h.later (hu.trans ⟨rfl, rfl, rfl, rfl⟩)) hl.quiet rfl⟩
  exact .of_reaches r (hchunk _ (Nat.lt_min.mpr ⟨Nat.pos_of_ne_zero hfree, hrem⟩) _ (hu.trans ⟨rfl, rfl, rfl, rfl⟩)
    (hl.later r) rfl)

variable (ha : IgnoresSeq after)
include ha

/-- So does a pass some passes before one that is told a free slot. -/
theorem RefillPlace.ends_of_freeAt (hchunk : ∀ n, 0 < n → EndsFrom s (at' (.chunk off rem n []))) (hrem : 0 < rem) {u : State}
    (hu : SameOperands s u) (hl : Live u) (hq : u.seq = some (at' (.delay off rem))) {m : Nat}
    (hfree : freeSlots (statusAt u m) ≠ 0) : Ends u := by
  induction m generalizing u with
  | zero => exact hp.ends_of_free h hchunk hrem hu hl hq (statusAt_zero u ▸ hfree)
  | succ m ih =>
    by_cases hnow : freeSlots u.nextStatus = 0
    · have hpass := (h.later hu).runN_emptyPass ha hl.quiet (hp.runN_liveDelay h hu hl hq).1 hrem hq hnow
      refine .of_reaches ⟨3, hpass⟩ (ih (hu.trans ⟨rfl, rfl, rfl, rfl⟩) (hl.later ⟨3, hpass⟩) hq ?_)
      rwa [← statusAt_strobe u.build.strobeNop] at hfree
    · exact hp.ends_of_free h hchunk hrem hu hl hq hnow

variable (hafter : ∀ v, Settles s (after v))
include hafter

/-- A pass ends, by induction on the remaining count: a chunk of a byte or more leaves a smaller one. -/
theorem RefillPlace.delay_endsFrom (hrem : 0 < rem) : EndsFrom s (at' (.delay off rem)) := by
  induction rem using Nat.strong_induction_on generalizing off with
  | _ rem ih =>
    have hchunk : ∀ n, 0 < n → EndsFrom s (at' (.chunk off rem n [])) := fun n hn => h.chunk_endsFrom (fun v => by
      unfold afterChunk
      split
      · exact hafter v
      · exact settles_goto (ih (rem - n) (by omega) (by omega)) v) []
    intro u hu hl hq
    obtain ⟨m, hm⟩ := hl.device _ _ _ ⟨1, (hp.runN_liveDelay h hu hl hq).2⟩ rfl (hp.awaits_eq (.poll off rem))
    exact hp.ends_of_freeAt h ha hchunk hrem hu hl hq (of_decide_eq_true hm).ne'

theorem RefillPlace.afterChunk_settles (v : State) : Settles s (afterChunk at' after off rem n v) := by
  unfold afterChunk
  split
  · exact hafter v
  · exact settles_goto (hp.delay_endsFrom h ha hafter (by omega)) v

theorem RefillPlace.poll_endsFrom : EndsFrom s (at' (.poll off rem)) := by
  refine endsFrom_of_step fun u hu _ => ?_
  rw [h u hu _ (by simp), refillStep]
  exact settles_goto (h.chunk_endsFrom (hp.afterChunk_settles h ha hafter) []) _

end

/-- A refill ends if what follows it does. -/
theorem RefillPlace.endsFrom {s : State} {src : Src} {restart : Bool} {at' : RefillPoint → Running} {after : State → State}
    (hp : RefillPlace restart at')
    (hrun : ∀ u, SameOperands s u → ∀ p, at' p ≠ .cont (.enter 0 0) → at' p ≠ .contZ (.enter 0 0) →
      microStep (at' p) u = refillStep src restart at' after p u)
    (ha : IgnoresSeq after) (hafter : ∀ v, Settles s (after v)) (p : RefillPoint) : EndsFrom s (at' p) := by
  have h : RunsRefill s src restart at' after := fun u hu p hne => hrun u hu p (hp.ne_zeroLength hne).1 (hp.ne_zeroLength hne).2
  by_cases hz : at' p = .cont (.enter 0 0) ∨ at' p = .contZ (.enter 0 0)
  · refine endsFrom_of_step fun u _ _ => ?_
    obtain hz | hz := hz <;> exact hz ▸ settles_done rfl rfl
  · obtain ⟨hc, hz⟩ := not_or.mp hz
    cases p with
    | enter off rem =>
      refine endsFrom_of_step fun u hu hd => ?_
      rw [hrun u hu _ hc hz, refillStep]
      exact settles_delayThen (hd (by rw [hp.pendingDelay_eq _ _ hc hz]; rfl)) (settles_goto (hp.poll_endsFrom h ha hafter) _)
    | delay off rem =>
      refine endsFrom_of_step fun u hu hd => ?_
      rw [hrun u hu _ hc hz]
      exact settles_delayThen (hd (by rw [hp.pendingDelay_eq _ _ hc hz]; rfl)) (settles_goto (hp.poll_endsFrom h ha hafter) _)
    | poll off rem => exact hp.poll_endsFrom h ha hafter
    | chunk off rem n buf => exact h.chunk_endsFrom (hp.afterChunk_settles h ha hafter) buf

/-! ### Begin and end -/

section
variable {s : State} {src : Src} {len : Nat} {at' : BeginPoint → Running} {after : State → State}
  (hrun : ∀ u, SameOperands s u → ∀ p, microStep (at' p) u = beginStep src len at' after p u)
include hrun

/-- The first chunk of a begin ends if its START_TX does. -/
theorem fill_endsFrom (hstart : EndsFrom s (at' .start)) (buf : List Byte) : EndsFrom s (at' (.fill buf)) := by
  induction hk : min len Config.fifoCapacity - buf.length generalizing buf with
  | zero =>
    refine endsFrom_of_step fun u hu _ => ?_
    rw [hrun u hu, beginStep]
    exact chunkStep_rule (fun a _ => settles_raise a u) (fun _ _ _ _ _ _ hlt => absurd hlt (by omega)) fun _ =>
      settles_goto hstart _
  | succ k ih =>
    refine endsFrom_of_step fun u hu _ => ?_
    rw [hrun u hu, beginStep]
    exact chunkStep_rule (fun a _ => settles_raise a u)
      (fun _ _ _ _ _ _ _ => settles_goto (ih _ (by simp; omega)) _) fun _ => settles_goto hstart _

/-- A begin ends if what follows it does. -/
theorem BeginPlace.endsFrom (hp : BeginPlace at') (ha : IgnoresSeq after) (hafter : ∀ v, Settles s (after v)) (p : BeginPoint) :
    EndsFrom s (at' p) := by
  have hrefill : ∀ p, EndsFrom s (at' (.refill p)) :=
    (RefillPlace.ofBegin hp).endsFrom (fun u hu p _ _ => hrun u hu (.refill p)) ha hafter
  have hosc : EndsFrom s (at' .oscWait) := by
    refine Polls.endsFrom (q' := at' (.refill (.enter Config.fifoCapacity (len - Config.fifoCapacity))))
      (met := oscStable s.build.oscMask) (fun u hu => ?_) (hp.awaits_eq .oscWait) (fun _ => rfl) (hrefill _)
    rw [hrun u hu, beginStep, apply_ite at', hu.build]
  have hstart : EndsFrom s (at' .start) := by
    refine endsFrom_of_step fun u hu _ => ?_
    rw [hrun u hu, beginStep]
    split
    · exact hafter _
    · exact settles_goto hosc _
  have hfill := fill_endsFrom hrun hstart
  have hflush : EndsFrom s (at' .flush) := endsFrom_of_step fun u hu _ => by
    rw [hrun u hu, beginStep]
    exact settles_goto (hfill []) _
  have hidle : EndsFrom s (at' .idleWait) := (hp.polls_idle s).endsFrom (hp.awaits_eq .idleWait) (fun _ => rfl) hflush
  cases p with
  | enter =>
    refine endsFrom_of_step fun u hu _ => ?_
    have hpoll : EndsFrom s (at' (if isIdle u.nextStatus then .flush else .idleWait)) := by split <;> assumption
    rw [hrun u hu, beginStep]
    exact hpoll.settles rfl
  | idleWait => exact hidle
  | flush => exact hflush
  | fill buf => exact hfill buf
  | start => exact hstart
  | oscWait => exact hosc
  | refill p => exact hrefill p

end

/-- An end ends if what follows it does. -/
theorem EndPlace.endsFrom {s : State} {at' : EndPoint → Running} {after : State → State} (hp : EndPlace at')
    (hrun : ∀ u, SameOperands s u → ∀ p, microStep (at' p) u = endStep at' after p u)
    (hafter : ∀ v, Settles s (after v)) (p : EndPoint) : EndsFrom s (at' p) := by
  have hidle : EndsFrom s (at' .idle) := endsFrom_of_step fun u hu _ => by
    rw [hrun u hu, endStep]
    exact hafter _
  have hdrain : EndsFrom s (at' .drainWait) := (hp.polls_drained s).endsFrom (hp.awaits_eq .drainWait) (fun _ => rfl) hidle
  cases p with
  | enter =>
    refine endsFrom_of_step fun u hu _ => ?_
    have hpoll : EndsFrom s (at' (if isDrained u.nextStatus then .idle else .drainWait)) := by split <;> assumption
    rw [hrun u hu, endStep]
    exact hpoll.settles rfl
  | drainWait => exact hdrain
  | idle => exact hidle

/-! ### Frames and commands -/

/-- A frame ends if what follows it does. -/
theorem frame_endsFrom {s : State} {d : Byte} {at' : FramePoint → Running} {after : State → State}
    (hb : BeginPlace fun p => at' (.first p)) (hr : ∀ k, RefillPlace true fun p => at' (.burst k p))
    (he : EndPlace fun p => at' (.last p))
    (hrun : ∀ u, SameOperands s u → ∀ p, microStep (at' p) u = frameStep d at' after p u)
    (hafter : ∀ v, Settles s (after v)) (p : FramePoint) : EndsFrom s (at' p) := by
  have hlast : ∀ p, EndsFrom s (at' (.last p)) := he.endsFrom (fun u hu p => hrun u hu (.last p)) hafter
  have hburst : ∀ k p, EndsFrom s (at' (.burst k p)) := by
    intro k
    induction hk : Config.frameBits - k generalizing k with
    | zero =>
      refine (hr k).endsFrom (fun u hu p _ _ => hrun u hu (.burst k p)) (fun _ _ => rfl) fun v => ?_
      rw [if_neg (by omega)]
      exact settles_goto (hlast _) v
    | succ n ih =>
      refine (hr k).endsFrom (fun u hu p _ _ => hrun u hu (.burst k p)) (fun _ _ => rfl) fun v => settles_goto ?_ v
      split
      · exact ih (k + 1) (by omega) _
      · exact hlast _
  cases p with
  | first p =>
    exact BeginPlace.endsFrom (fun u hu p => hrun u hu (.first p)) hb (fun _ _ => rfl) (settles_goto (hburst 1 _)) p
  | burst k p => exact hburst k p
  | last p => exact hlast p

section
variable {s : State} {i : Nat} (hnext : ∀ v, Settles s (txNext (i + 1) v))
include hnext

theorem gapDelay_endsFrom (ms : Nat) : EndsFrom s (.tx (.gapDelay i ms)) :=
  endsFrom_of_step fun _ _ hd => settles_delayThen (hd rfl) (hnext _)

theorem gapDraw_endsFrom : EndsFrom s (.tx (.gapDraw i)) :=
  endsFrom_of_step fun _ _ _ => settles_goto (gapDelay_endsFrom hnext _) _

theorem txFrame_endsFrom (d : Byte) (p : FramePoint) : EndsFrom s (.tx (.frame i d p)) := by
  refine frame_endsFrom (at' := fun p => .tx (.frame i d p)) (.tx i d) (.tx i d) (.tx i d) (fun _ _ _ => rfl) (fun v => ?_) p
  unfold txGap
  split
  · exact settles_goto (gapDelay_endsFrom hnext _) v
  · exact settles_goto (gapDraw_endsFrom hnext) v

theorem settles_txRead (v : State) : Settles s (txRead i v) :=
  memReadThen_rule (fun _ => settles_raise _ v) fun _ => settles_goto (txFrame_endsFrom hnext _ _) _

end

theorem txNext_opLength (i : Nat) (v : State) : (txNext i v).opLength = v.opLength := by
  unfold txNext
  split <;> rfl

/-- TX ends, by induction on the bytes it has still to send. -/
theorem settles_txNext (s : State) (i : Nat) (v : State) : Settles s (txNext i v) := by
  induction hk : s.opLength - i generalizing i v with
  | zero =>
    intro hops
    have hi : v.opLength ≤ i := by rw [← txNext_opLength i v, hops.opLength]; omega
    rw [txNext_of_le hi] at hops ⊢
    exact settles_done rfl rfl hops
  | succ k ih =>
    intro hops
    have hi : i < v.opLength := by rw [← txNext_opLength i v, hops.opLength]; omega
    rw [txNext_of_lt hi] at hops ⊢
    exact settles_goto (endsFrom_of_step fun u _ _ => settles_txRead (fun v => ih (i + 1) v (by omega)) u) v hops

theorem tx_endsFrom (s : State) (p : TxPoint) : EndsFrom s (.tx p) := by
  have hnext := settles_txNext s
  cases p with
  | start =>
    refine endsFrom_of_step fun u _ _ => ?_
    simp only [microStep, txStep, txStart]
    split
    · exact settles_goto (endsFrom_of_step fun _ _ hd => settles_delayThen (hd rfl) (hnext 0 _)) _
    · split
      · exact settles_txRead (hnext 1) u
      · exact settles_done rfl rfl
  | leadDelay r0 => exact endsFrom_of_step fun _ _ hd => settles_delayThen (hd rfl) (hnext 0 _)
  | read i => exact endsFrom_of_step fun u _ _ => settles_txRead (hnext (i + 1)) u
  | frame i d p => exact txFrame_endsFrom (hnext (i + 1)) d p
  | gapDraw i => exact gapDraw_endsFrom (hnext (i + 1))
  | gapDelay i ms => exact gapDelay_endsFrom (hnext (i + 1)) ms

theorem running_endsFrom (s : State) (q : Running) : EndsFrom s q := by
  have hdone : ∀ v, Settles s (complete v) := fun _ => settles_done rfl rfl
  cases q with
  | encode | frame | setPwr => exact endsFrom_of_step fun _ _ _ => hdone _
  | txByte p =>
    exact frame_endsFrom (d := s.opData) .txByte .txByte .txByte (fun u hu p => by rw [← hu.opData]; rfl) hdone p
  | tx p => exact tx_endsFrom s p
  | rawTx p =>
    have hclose : ∀ p, EndsFrom s (.rawTx (.close p)) := EndPlace.rawTx.endsFrom (fun _ _ _ => rfl) hdone
    cases p with
    | stream p =>
      exact BeginPlace.endsFrom (src := .mem s.opBase) (len := s.opLength)
        (fun u hu p => by rw [← hu.opBase, ← hu.opLength]; rfl) .rawTx (fun _ _ => rfl) (settles_goto (hclose .enter)) p
    | close p => exact hclose p
  | beginTx p =>
    exact BeginPlace.endsFrom (src := .mem s.opBase) (len := s.opLength)
      (fun u hu p => by rw [← hu.opBase, ← hu.opLength]; rfl) .beginTx (fun _ _ => rfl) hdone p
  | cont p =>
    exact RefillPlace.cont.endsFrom (src := .mem s.opBase)
      (fun u hu p hp _ => by rw [← hu.opBase]; exact if_neg fun e => hp (congrArg _ e)) (fun _ _ => rfl) hdone p
  | contZ p =>
    exact RefillPlace.contZ.endsFrom (fun u hu p _ hp => if_neg fun e => hp (congrArg _ e)) (fun _ _ => rfl) hdone p
  | endTx p => exact EndPlace.endTx.endsFrom (fun _ _ _ => rfl) hdone p

/-- Settles O60: every point of every command ends. -/
theorem commandsEndWhereDeviceAndTimerAreLive : Obligations.CommandsEndWhereDeviceAndTimerAreLive := by
  intro s q hi hq hdev htimer
  obtain ⟨t, ⟨n, hn⟩, hseq, hbusy⟩ := running_endsFrom s q s (.refl s) ⟨hi, hdev, htimer⟩ hq
  exact ⟨n, t, hn, hseq, hbusy⟩

end Sys2Proof.Machine
end

section
/-! SUPPORT. What a command sends until it ends without a fault (42_fifo_stream.md R80, 43_pacer.md R88): at each point the bytes that its procedure has still to send, and then what follows the procedure sends. The number of steps bounds the waits. -/

namespace Sys2Proof.Machine

/-! ### Runs of `k` steps that end without a fault -/

/-- The state has the operands and the host memory of `s`, and no move is pending. -/
structure SameSource (s u : State) : Prop where
  ops   : SameOperands s u
  mem   : u.mem = s.mem
  quiet : u.inputs = []

/-- If `k` steps complete the command without a fault, the bytes sent until then are `all`. -/
def FinalSent (k : Nat) (all : List Byte) (u : State) : Prop :=
  ∀ t, runN k u = .next t → t.seq = none → t.fault = false → sentBytes t.trace = all

/-- From `q` on a command with the source of `s` sends `bs`, if it completes in `k` steps without a fault. -/
def SendsFrom (k : Nat) (s : State) (q : Running) (bs : List Byte) : Prop :=
  ∀ u, SameSource s u → u.seq = some q → FinalSent k (sentBytes u.trace ++ bs) u

/-- What follows a procedure sends `bs`. -/
def SendsAfter (s : State) (after : State → State) (bs : List Byte) : Prop :=
  ∀ k v, SameSource s v → FinalSent k (sentBytes v.trace ++ bs) (after v)

@[simp] theorem sentBytes_singleton (e : Event) : sentBytes [e] = eventBytes e := by simp [sentBytes]

theorem SameSource.later {s u v : State} (h : SameSource s u) (ho : SameOperands u v) (hm : v.mem = u.mem)
    (hi : v.inputs = u.inputs) : SameSource s v :=
  ⟨h.ops.trans ho, hm.trans h.mem, hi.trans h.quiet⟩

section
variable {k : Nat} {s u v : State} {q : Running} {bs all : List Byte}

theorem finalSent_of_waiting (hi : v.inputs = []) (hq : v.seq = none) (h : v.fault = false → sentBytes v.trace = all) :
    FinalSent k all v := by
  intro t ht _ hf
  obtain rfl : v = t := by simpa [runN_waiting hq hi] using ht
  exact h hf

theorem finalSent_raise (a : Nat) (hi : v.inputs = []) : FinalSent k all (raiseMemFault a v) :=
  finalSent_of_waiting hi rfl fun hf => by cases hf

theorem sendsAfter_complete : SendsAfter s complete [] :=
  fun _ _ hv => finalSent_of_waiting hv.quiet rfl fun _ => (List.append_nil _).symm

theorem sendsAfter_goto (h : ∀ k, SendsFrom k s q bs) : SendsAfter s (goto q) bs :=
  fun k _ hv => h k _ (hv.later ⟨rfl, rfl, rfl, rfl⟩ rfl rfl) rfl

theorem sendsFrom_zero : SendsFrom 0 s q bs := by
  intro u _ hq t ht hn
  obtain rfl : u = t := by simpa [runN] using ht
  simp [hq] at hn

theorem sendsFrom_succ (h : ∀ u, SameSource s u → u.seq = some q → FinalSent k (sentBytes u.trace ++ bs) (microStep q u)) :
    SendsFrom (k + 1) s q bs := by
  intro u hu hq t ht
  rw [runN_succ (step_of_seq hu.quiet hq)] at ht
  exact h u hu hq t ht

theorem SendsFrom.finalSent (h : SendsFrom k s q bs) (hv : SameSource s v) (hq : v.seq = some q)
    (hall : sentBytes v.trace ++ bs = all) : FinalSent k all v :=
  hall ▸ h v hv hq

theorem SendsAfter.finalSent {after : State → State} (h : SendsAfter s after bs) (hv : SameSource s v)
    (hall : sentBytes v.trace ++ bs = all) : FinalSent k all (after v) :=
  hall ▸ h k v hv

end

/-! ### The bytes of a source -/

/-- Bytes `off` to `off + len - 1` of a source. -/
def srcBytes (s : State) : Src → Nat → Nat → List Byte
  | .mem base, off, len => (List.range len).map fun j => Memory.read s.mem (base + off + j)
  | .rom t, off, len => romSlice s.build t off len
  | .zero, _, len => List.replicate len 0#8

/-- The `n` bytes of a chunk, of which `buf` is already read from host memory. -/
def chunkBytes (s : State) (src : Src) (off n : Nat) (buf : List Byte) : List Byte :=
  match src with
  | .mem base => buf ++ srcBytes s (.mem base) (off + buf.length) (n - buf.length)
  | src => srcBytes s src off n

section
variable (s : State) (src : Src)

@[simp] theorem srcBytes_zero (off : Nat) : srcBytes s src off 0 = [] := by
  cases src <;> simp [srcBytes, romSlice]

theorem srcBytes_add (off m n : Nat) : srcBytes s src off (m + n) = srcBytes s src off m ++ srcBytes s src (off + m) n := by
  cases src with
  | mem base => simp [srcBytes, List.range_add, Function.comp_def, Nat.add_assoc]
  | rom t => exact romSlice_add s.build t off m n
  | zero => simp [srcBytes, List.replicate_append_replicate]

/-- The first chunk of a begin, and the rest. -/
theorem srcBytes_firstChunk (len : Nat) : srcBytes s src 0 len =
    srcBytes s src 0 (min len Config.fifoCapacity) ++ srcBytes s src Config.fifoCapacity (len - Config.fifoCapacity) := by
  by_cases h : len ≤ Config.fifoCapacity
  · simp [min_eq_left h, Nat.sub_eq_zero_of_le h]
  · have hsplit := srcBytes_add s src 0 Config.fifoCapacity (len - Config.fifoCapacity)
    rw [Nat.add_sub_cancel' (by omega), Nat.zero_add] at hsplit
    rw [min_eq_right (by omega), hsplit]

theorem chunkBytes_nil (off n : Nat) : chunkBytes s src off n [] = srcBytes s src off n := by
  cases src <;> simp [chunkBytes]

theorem chunkBytes_read {base off n a : Nat} {buf : List Byte} (h : buf.length < n) (ha : a = base + off + buf.length) :
    chunkBytes s (.mem base) off n (buf ++ [Memory.read s.mem a]) = chunkBytes s (.mem base) off n buf := by
  subst ha
  have hn : n - buf.length = 1 + (n - (buf.length + 1)) := by omega
  simp only [chunkBytes, hn, srcBytes_add]
  simp [srcBytes, Nat.add_assoc]

theorem eventBytes_chunkEvent {off n : Nat} {buf : List Byte} (h : ∀ base, src = .mem base → n ≤ buf.length) :
    eventBytes (chunkEvent src s.build off n buf) = chunkBytes s src off n buf := by
  cases src with
  | mem base => simp [chunkEvent, eventBytes, chunkBytes, Nat.sub_eq_zero_of_le (h base rfl)]
  | rom t => rfl
  | zero => rfl

end

/-! ### The procedures -/

/-- The bytes a refill has still to send. -/
def refillBytes (s : State) (src : Src) : RefillPoint → List Byte
  | .enter off rem => srcBytes s src off rem
  | .delay off rem => srcBytes s src off rem
  | .poll off rem => srcBytes s src off rem
  | .chunk off rem n buf => chunkBytes s src off n buf ++ srcBytes s src (off + n) (rem - n)

/-- The bytes a begin over `len` bytes has still to send. -/
def beginBytes (s : State) (src : Src) (len : Nat) : BeginPoint → List Byte
  | .enter => srcBytes s src 0 len
  | .idleWait => srcBytes s src 0 len
  | .flush => srcBytes s src 0 len
  | .fill buf => chunkBytes s src 0 (min len Config.fifoCapacity) buf ++
      srcBytes s src Config.fifoCapacity (len - Config.fifoCapacity)
  | .start => srcBytes s src Config.fifoCapacity (len - Config.fifoCapacity)
  | .oscWait => srcBytes s src Config.fifoCapacity (len - Config.fifoCapacity)
  | .refill p => refillBytes s src p

/-- A refill sends the bytes of its source. -/
theorem RunsRefill.sends {s : State} {src : Src} {restart : Bool} {at' : RefillPoint → Running} {after : State → State}
    {bs : List Byte} (h : RunsRefill s src restart at' after) (hafter : SendsAfter s after bs) (k : Nat) {p : RefillPoint}
    (hp : p ≠ .enter 0 0) : SendsFrom k s (at' p) (refillBytes s src p ++ bs) := by
  induction k generalizing p with
  | zero => exact sendsFrom_zero
  | succ k ih =>
    refine sendsFrom_succ fun u hu hq => ?_
    rw [h u hu.ops p hp]
    cases p with
    | enter off rem =>
      rw [refillStep]
      refine delayThen_rule (fun _ => ih hp u hu hq) fun _ => (ih (p := .poll off rem) (by simp)).finalSent ?_ rfl ?_
      · cases restart <;> exact hu.later ⟨rfl, rfl, rfl, rfl⟩ rfl rfl
      · cases restart <;> simp [refillBytes, refillOpen, eventBytes]
    | delay off rem =>
      rw [refillStep]
      exact delayThen_rule (fun _ => ih hp u hu hq) fun _ => (ih (p := .poll off rem) (by simp)).finalSent
        (hu.later ⟨rfl, rfl, rfl, rfl⟩ rfl rfl) rfl (by simp [refillBytes, eventBytes])
    | poll off rem =>
      rw [refillStep]
      refine (ih (p := .chunk off rem _ []) (by simp)).finalSent (hu.later ⟨rfl, rfl, rfl, rfl⟩ rfl rfl) rfl ?_
      have hsplit := srcBytes_add s src off (min (freeSlots u.nextStatus) rem) (rem - min (freeSlots u.nextStatus) rem)
      rw [Nat.add_sub_cancel' (min_le_right _ _)] at hsplit
      simp [refillBytes, chunkBytes_nil, eventBytes, hsplit]
    | chunk off rem n buf =>
      rw [refillStep]
      refine chunkStep_rule (fun a _ => finalSent_raise a hu.quiet) (fun base a v hsrc ha hv hlt => ?_) fun hw => ?_
      · subst hsrc hv
        refine (ih (p := .chunk off rem n (buf ++ [_])) (by simp)).finalSent (hu.later ⟨rfl, rfl, rfl, rfl⟩ rfl rfl) rfl ?_
        simp [refillBytes, eventBytes, hu.mem, chunkBytes_read s hlt ha]
      · have hsent : eventBytes (chunkEvent src u.build off n buf) = chunkBytes s src off n buf := by
          rw [hu.ops.build, eventBytes_chunkEvent s src hw]
        split
        · next hlast => exact hafter.finalSent (hu.later ⟨rfl, rfl, rfl, rfl⟩ rfl rfl) (by simp [refillBytes, hsent, hlast])
        · exact (ih (p := .delay (off + n) (rem - n)) (by simp)).finalSent (hu.later ⟨rfl, rfl, rfl, rfl⟩ rfl rfl) rfl
            (by simp [refillBytes, hsent])

/-- A begin sends the bytes of its source. -/
theorem beginStep_sends {s : State} {src : Src} {len : Nat} {at' : BeginPoint → Running} {after : State → State}
    {bs : List Byte} (hrun : ∀ u, SameOperands s u → ∀ p, microStep (at' p) u = beginStep src len at' after p u)
    (hafter : SendsAfter s after bs) (k : Nat) {p : BeginPoint} (hp : p ≠ .refill (.enter 0 0)) :
    SendsFrom k s (at' p) (beginBytes s src len p ++ bs) := by
  have hrefill : RunsRefill s src false (fun p => at' (.refill p)) after := fun u hu p _ => hrun u hu (.refill p)
  induction k generalizing p with
  | zero => exact sendsFrom_zero
  | succ k ih =>
    have hidle : ∀ x, SendsFrom k s (at' (if isIdle x then .flush else .idleWait)) (srcBytes s src 0 len ++ bs) := by
      intro x
      split
      · exact ih (p := .flush) (by simp)
      · exact ih (p := .idleWait) (by simp)
    refine sendsFrom_succ fun u hu hq => ?_
    rw [hrun u hu.ops p]
    cases p with
    | enter | idleWait =>
      exact (hidle u.nextStatus).finalSent (hu.later ⟨rfl, rfl, rfl, rfl⟩ rfl rfl) rfl
        (by simp [beginStep, idlePoll, beginBytes, eventBytes])
    | flush =>
      refine (ih (p := .fill []) (by simp)).finalSent (hu.later ⟨rfl, rfl, rfl, rfl⟩ rfl rfl) rfl ?_
      simp [beginStep, beginBytes, eventBytes, chunkBytes_nil, srcBytes_firstChunk s src len]
    | fill buf =>
      rw [beginStep]
      refine chunkStep_rule (fun a _ => finalSent_raise a hu.quiet) (fun base a v hsrc ha hv hlt => ?_) fun hw => ?_
      · subst hsrc hv
        rw [markFill_eq_setPhase]
        refine (ih (p := .fill (buf ++ [_])) (by simp)).finalSent (hu.later ⟨rfl, rfl, rfl, rfl⟩ rfl rfl) rfl ?_
        simp [beginBytes, eventBytes, hu.mem, chunkBytes_read s hlt ha]
      · have hsent : eventBytes (chunkEvent src u.build 0 (min len Config.fifoCapacity) buf) =
            chunkBytes s src 0 (min len Config.fifoCapacity) buf := by
          rw [hu.ops.build, eventBytes_chunkEvent s src hw]
        rw [markFill_eq_setPhase]
        exact (ih (p := .start) (by simp)).finalSent (hu.later ⟨rfl, rfl, rfl, rfl⟩ rfl rfl) rfl (by simp [beginBytes, hsent])
    | start =>
      rw [beginStep]
      split
      · next hlen =>
        exact hafter.finalSent (hu.later ⟨rfl, rfl, rfl, rfl⟩ rfl rfl)
          (by simp [beginBytes, eventBytes, Nat.sub_eq_zero_of_le hlen])
      · exact (ih (p := .oscWait) (by simp)).finalSent (hu.later ⟨rfl, rfl, rfl, rfl⟩ rfl rfl) rfl
          (by simp [beginBytes, eventBytes])
    | oscWait =>
      have hosc : SendsFrom k s (at' (if oscStable u.build.oscMask u.nextStatus then
          .refill (.enter Config.fifoCapacity (len - Config.fifoCapacity)) else .oscWait))
          (srcBytes s src Config.fifoCapacity (len - Config.fifoCapacity) ++ bs) := by
        split
        · exact ih (p := .refill (.enter Config.fifoCapacity _)) (by simp [Config.fifoCapacity])
        · exact ih (p := .oscWait) (by simp)
      exact hosc.finalSent (hu.later ⟨rfl, rfl, rfl, rfl⟩ rfl rfl) rfl (by simp [beginStep, beginBytes, eventBytes])
    | refill p =>
      have hstep := hrefill.sends hafter (k + 1) (p := p) (fun h => hp (congrArg _ h)) u hu hq
      rw [FinalSent, runN_succ (step_of_seq hu.quiet hq), hrun u hu.ops] at hstep
      exact hstep

/-- An end sends nothing itself. -/
theorem endStep_sends {s : State} {at' : EndPoint → Running} {after : State → State} {bs : List Byte}
    (hrun : ∀ u, SameOperands s u → ∀ p, microStep (at' p) u = endStep at' after p u) (hafter : SendsAfter s after bs)
    (k : Nat) (p : EndPoint) : SendsFrom k s (at' p) bs := by
  induction k generalizing p with
  | zero => exact sendsFrom_zero
  | succ k ih =>
    refine sendsFrom_succ fun u hu _ => ?_
    rw [hrun u hu.ops p]
    cases p with
    | enter | drainWait =>
      exact (ih _).finalSent (hu.later ⟨rfl, rfl, rfl, rfl⟩ rfl rfl) rfl (by simp [endStep, drainPoll, eventBytes])
    | idle => exact hafter.finalSent (hu.later ⟨rfl, rfl, rfl, rfl⟩ rfl rfl) (by simp [eventBytes])

/-! ### Frames -/

/-- The bytes of the bursts of a frame from position `j` on. -/
def burstsFrom (b : Build) (d : Byte) (j : Nat) : List Byte :=
  ((List.range (Config.frameBits - j)).map fun i => burst b d (j + i)).flatten

theorem burstsFrom_of_lt (b : Build) (d : Byte) {j : Nat} (h : j < Config.frameBits) :
    burstsFrom b d j = burst b d j ++ burstsFrom b d (j + 1) := by
  have hn : Config.frameBits - j = Config.frameBits - (j + 1) + 1 := by omega
  rw [burstsFrom, hn, List.range_succ_eq_map]
  simp [burstsFrom, Function.comp_def, Nat.add_assoc, Nat.add_comm 1]

theorem burstsFrom_zero (b : Build) (d : Byte) : burstsFrom b d 0 = chipStream b d := by simp [burstsFrom, chipStream]

theorem srcBytes_burst (s : State) (d : Byte) (j : Nat) : srcBytes s (.rom (burstPrn d j)) 0 burstLen = burst s.build d j :=
  romSlice_burstLen s.build (burstPrn d j)

/-- A frame sends its chip stream. -/
theorem frame_sends {s : State} {d : Byte} {at' : FramePoint → Running} {after : State → State} {bs : List Byte}
    (hrun : ∀ u, SameOperands s u → ∀ p, microStep (at' p) u = frameStep d at' after p u) (hafter : SendsAfter s after bs)
    (k : Nat) : SendsFrom k s (at' (.first .enter)) (chipStream s.build d ++ bs) := by
  have hlast : ∀ k, SendsFrom k s (at' (.last .enter)) bs := fun k =>
    endStep_sends (at' := fun p => at' (.last p)) (fun u hu p => hrun u hu (.last p)) hafter k .enter
  have hburst : ∀ j, j < Config.frameBits → (∀ k, SendsFrom k s (at' (laterPoint j)) (burstsFrom s.build d (j + 1) ++ bs)) →
      ∀ k, SendsFrom k s (at' (.burst j (.enter 0 burstLen))) (burstsFrom s.build d j ++ bs) := by
    intro j hj hnext k
    have hrefill : RunsRefill s (.rom (burstPrn d j)) true (fun p => at' (.burst j p)) (goto (at' (laterPoint j))) :=
      fun u hu p _ => hrun u hu (.burst j p)
    have hsend := hrefill.sends (sendsAfter_goto hnext) k (p := .enter 0 burstLen) (by simp [burstLen])
    rwa [refillBytes, srcBytes_burst, ← List.append_assoc, ← burstsFrom_of_lt _ _ hj] at hsend
  have hlater : ∀ j k, SendsFrom k s (at' (laterPoint j)) (burstsFrom s.build d (j + 1) ++ bs) := by
    intro j
    induction hm : Config.frameBits - (j + 1) generalizing j with
    | zero =>
      rw [laterPoint, if_neg (by omega), burstsFrom, hm]
      exact hlast
    | succ m ih =>
      rw [laterPoint, if_pos (by omega)]
      exact hburst (j + 1) (by omega) (ih (j + 1) (by omega))
  have hfirst := beginStep_sends (at' := fun p => at' (.first p)) (fun u hu p => hrun u hu (.first p))
    (sendsAfter_goto (hlater 0)) k (p := .enter) (by simp)
  rwa [beginBytes, srcBytes_burst, ← List.append_assoc, ← burstsFrom_of_lt _ _ (by decide), burstsFrom_zero] at hfirst

/-! ### TX -/

/-- The chip streams of the source bytes from byte `i` on. -/
def framesFrom (s : State) (i : Nat) : List Byte :=
  ((List.range (s.opLength - i)).map fun j => chipStream s.build (Memory.read s.mem (s.opBase + (i + j)))).flatten

theorem framesFrom_of_lt (s : State) {i : Nat} (h : i < s.opLength) :
    framesFrom s i = chipStream s.build (Memory.read s.mem (s.opBase + i)) ++ framesFrom s (i + 1) := by
  have hn : s.opLength - i = s.opLength - (i + 1) + 1 := by omega
  rw [framesFrom, hn, List.range_succ_eq_map]
  simp [framesFrom, Function.comp_def, Nat.add_assoc, Nat.add_comm 1]

theorem framesFrom_zero (s : State) : framesFrom s 0 = payload s .tx := by
  simp [framesFrom, payload, sourceBytes, Function.comp_def]

section
variable {s : State} {i : Nat} {bs : List Byte} (hnext : SendsAfter s (txNext (i + 1)) bs)
include hnext

theorem gapDelay_sends (k ms : Nat) : SendsFrom k s (.tx (.gapDelay i ms)) bs := by
  induction k with
  | zero => exact sendsFrom_zero
  | succ k ih =>
    refine sendsFrom_succ fun u hu hq => ?_
    exact delayThen_rule (fun _ => ih u hu hq) fun _ =>
      hnext.finalSent (hu.later ⟨rfl, rfl, rfl, rfl⟩ rfl rfl) (by simp [eventBytes])

theorem gapDraw_sends (k : Nat) : SendsFrom k s (.tx (.gapDraw i)) bs := by
  cases k with
  | zero => exact sendsFrom_zero
  | succ k =>
    exact sendsFrom_succ fun u hu _ => (gapDelay_sends hnext k _).finalSent (hu.later ⟨rfl, rfl, rfl, rfl⟩ rfl rfl) rfl
      (by simp [microStep, txStep, eventBytes])

theorem sendsAfter_txGap : SendsAfter s (txGap i) bs := by
  intro k v hv
  unfold txGap
  split
  · exact sendsAfter_goto (gapDelay_sends hnext · _) k v hv
  · exact sendsAfter_goto (gapDraw_sends hnext) k v hv

/-- The read of a byte, and its frame. -/
theorem txRead_sends {k : Nat} {u : State} (hu : SameSource s u) : FinalSent k
    (sentBytes u.trace ++ (chipStream s.build (Memory.read s.mem (s.opBase + i)) ++ bs)) (txRead i u) := by
  refine memReadThen_rule (fun _ => finalSent_raise _ hu.quiet) fun _ => ?_
  rw [hu.ops.opBase, hu.mem]
  exact (frame_sends (at' := fun p => .tx (.frame i _ p)) (fun _ _ _ => rfl) (sendsAfter_txGap hnext) k).finalSent
    (hu.later ⟨rfl, rfl, rfl, rfl⟩ rfl rfl) rfl (by simp [eventBytes])

end

theorem sendsAfter_txNext (s : State) (i : Nat) : SendsAfter s (txNext i) (framesFrom s i) := by
  induction hm : s.opLength - i generalizing i with
  | zero =>
    intro k v hv
    rw [txNext_of_le (by rw [hv.ops.opLength]; omega), framesFrom, hm]
    exact sendsAfter_complete k v hv
  | succ m ih =>
    intro k v hv
    rw [txNext_of_lt (by rw [hv.ops.opLength]; omega), framesFrom_of_lt s (by omega)]
    refine sendsAfter_goto (fun k => ?_) k v hv
    cases k with
    | zero => exact sendsFrom_zero
    | succ k => exact sendsFrom_succ fun u hu _ => txRead_sends (ih (i + 1) (by omega)) hu

theorem leadDelay_sends (s : State) (k r0 : Nat) : SendsFrom k s (.tx (.leadDelay r0)) (framesFrom s 0) := by
  induction k with
  | zero => exact sendsFrom_zero
  | succ k ih =>
    refine sendsFrom_succ fun u hu hq => ?_
    exact delayThen_rule (fun _ => ih u hu hq) fun _ =>
      (sendsAfter_txNext s 0).finalSent (hu.later ⟨rfl, rfl, rfl, rfl⟩ rfl rfl) (by simp [eventBytes])

theorem tx_sends (s : State) (k : Nat) : SendsFrom k s (.tx .start) (framesFrom s 0) := by
  cases k with
  | zero => exact sendsFrom_zero
  | succ k =>
    refine sendsFrom_succ fun u hu _ => ?_
    simp only [microStep, txStep, txStart]
    split
    · exact (leadDelay_sends s k _).finalSent (hu.later ⟨rfl, rfl, rfl, rfl⟩ rfl rfl) rfl (by simp [eventBytes])
    · split
      · next hlen =>
        rw [framesFrom_of_lt s (hu.ops.opLength ▸ hlen)]
        exact txRead_sends (sendsAfter_txNext s 1) hu
      · next hlen =>
        have hzero : s.opLength - 0 = 0 := by rw [← hu.ops.opLength]; omega
        rw [framesFrom, hzero]
        exact sendsAfter_complete k u hu

/-! ### Every command -/

theorem srcBytes_source (s : State) : srcBytes s (.mem s.opBase) 0 s.opLength = sourceBytes s := by
  simp [srcBytes, sourceBytes]

/-- A command whose one step completes it sends nothing. -/
theorem sends_of_complete {s : State} {q : Running} (k : Nat)
    (h : ∀ u, ∃ v, microStep q u = complete v ∧ v.trace = u.trace ∧ v.inputs = u.inputs) : SendsFrom k s q [] := by
  cases k with
  | zero => exact sendsFrom_zero
  | succ k =>
    refine sendsFrom_succ fun u hu _ => ?_
    obtain ⟨v, e, htrace, hinputs⟩ := h u
    rw [e]
    exact finalSent_of_waiting (hinputs.trans hu.quiet) rfl fun _ => by simp [htrace]

/-- BEGIN, and the stream of RAWTX. -/
theorem sourceBegin_sends {s : State} {at' : BeginPoint → Running} {after : State → State}
    (hrun : ∀ u p, microStep (at' p) u = beginStep (.mem u.opBase) u.opLength at' after p u) (hafter : SendsAfter s after [])
    (k : Nat) : SendsFrom k s (at' .enter) (sourceBytes s) := by
  have h := beginStep_sends (src := .mem s.opBase) (len := s.opLength)
    (fun u hu p => by rw [← hu.opBase, ← hu.opLength, hrun]) hafter k (p := .enter) (by simp)
  rwa [beginBytes, srcBytes_source, List.append_nil] at h

/-- CONT and CONTZ. -/
theorem cont_sends {s : State} {src : Src} {at' : RefillPoint → Running} (k : Nat) (hrun : RunsRefill s src true at' complete)
    (hzero : ∀ u, microStep (at' (.enter 0 0)) u = complete (openCount 0 u)) :
    SendsFrom k s (at' (.enter 0 s.opLength)) (srcBytes s src 0 s.opLength) := by
  by_cases h : s.opLength = 0
  · rw [h, srcBytes_zero]
    exact sends_of_complete k fun u => ⟨_, hzero u, rfl, rfl⟩
  · simpa [refillBytes] using hrun.sends sendsAfter_complete k (p := .enter 0 s.opLength) (by simpa using h)

theorem firstPoint_sends (s : State) (i : Instr) (k : Nat) : SendsFrom k s (firstPoint s.opLength i) (payload s i) := by
  cases i with
  | encode | frame | setPwr => exact sends_of_complete k fun u => ⟨_, rfl, rfl, rfl⟩
  | txByte =>
    have h := frame_sends (at' := .txByte) (d := s.opData) (fun u hu p => by rw [← hu.opData]; rfl) sendsAfter_complete k
    rwa [List.append_nil] at h
  | tx => exact framesFrom_zero s ▸ tx_sends s k
  | rawTx =>
    exact sourceBegin_sends (at' := fun p => .rawTx (.stream p)) (fun _ _ => rfl) (sendsAfter_goto fun k =>
      endStep_sends (at' := fun p => .rawTx (.close p)) (fun _ _ _ => rfl) sendsAfter_complete k .enter) k
  | beginTx => exact sourceBegin_sends (fun _ _ => rfl) sendsAfter_complete k
  | cont =>
    have h := cont_sends k (runsRefill_cont s) fun _ => rfl
    rwa [srcBytes_source] at h
  | contZ => exact cont_sends k (runsRefill_contZ s) fun _ => rfl
  | endTx => exact endStep_sends (fun _ _ _ => rfl) sendsAfter_complete k .enter

/-- Without a reset, a run only adds to the trace. -/
theorem trace_of_runN {s t : State} {n : Nat} (hi : s.inputs = []) (h : runN n s = .next t) : ∃ es, t.trace = s.trace ++ es := by
  induction n generalizing s with
  | zero =>
    obtain rfl : s = t := by simpa [runN] using h
    exact ⟨[], (List.append_nil _).symm⟩
  | succ n ih =>
    cases hs : step s with
    | next u =>
      obtain ⟨es, hes⟩ := ih ((Reaches.of_step hs).quiet hi).1 (runN_succ hs n ▸ h)
      obtain hu | ⟨e, hu⟩ | ⟨rest, hreset, -⟩ := traceGrowsByAtMostOneEvent s u hs
      · exact ⟨es, hu ▸ hes⟩
      · exact ⟨e :: es, by simp [hes, hu]⟩
      · simp [hi] at hreset
    | fault f => simp [runN, hs] at h
    | refused r => simp [runN, hs] at h

/-- Settles O38: what the trace holds at the end is what it held before and the payload. -/
theorem endedCommandHasSentItsPayload : Obligations.EndedCommandHasSentItsPayload := by
  intro i s t n hi _ hq hrun hseq hfault
  obtain ⟨es, hes⟩ := trace_of_runN hi hrun
  have hsent := firstPoint_sends s i n s ⟨.refl s, rfl, hi⟩ hq t hrun hseq hfault
  refine ⟨es, hes, ?_⟩
  rw [hes, sentBytes_append] at hsent
  exact List.append_cancel_left hsent

end Sys2Proof.Machine
end
